-- ==== Sys2Proof/Word.lean ====
section
/-! DEFINITION. The words, bytes and blocks of the bsglab cipher core (spec/00_scope.md R10 to R13),
and the two one-bit names a command and a message carry, direction and mode (R19). -/

namespace Sys2Proof

/-- A byte: an unsigned 8-bit value (R11). -/
abbrev Byte := BitVec 8

/-- A register word of the window and a command word: 32 bits (R10, R13, R80). -/
abbrev Word := BitVec 32

/-- A block: 16 bytes, index 0 first (R2, R11). -/
abbrev Block := Vector Byte 16

/-- The round-key file RK[0..10]: 11 blocks (R8, R41). -/
abbrev RoundKeys := Vector Block 11

/-- The block of sixteen zero bytes. -/
def Block.zero : Block := Vector.replicate 16 0

/-- A block written as one number of 32 hexadecimal digits, byte 0 first (R13). -/
def Block.ofHex (n : Nat) : Block :=
  Vector.ofFn fun i : Fin 16 => BitVec.ofNat 8 (n >>> (8 * (15 - i.val)))

/-- Direction of a message (R19). -/
inductive Dir where
  | encrypt
  | decrypt
  deriving DecidableEq, Repr

/-- Mode of a message (R19). -/
inductive Mode where
  | ecb
  | cbc
  deriving DecidableEq, Repr

/-- R19: 0 = encrypt, 1 = decrypt. -/
def Dir.bit : Dir → Bool
  | .encrypt => false
  | .decrypt => true

/-- R19: 0 = encrypt, 1 = decrypt. -/
def Dir.ofBit : Bool → Dir
  | false => .encrypt
  | true => .decrypt

/-- R19: 0 = ECB, 1 = CBC. -/
def Mode.bit : Mode → Bool
  | .ecb => false
  | .cbc => true

/-- R19: 0 = ECB, 1 = CBC. -/
def Mode.ofBit : Bool → Mode
  | false => .ecb
  | true => .cbc

end Sys2Proof
end

