-- ==== Sys2Proof/Machine/Bus.lean ====
section
/-! DEFINITION. What the agents outside the core say to it: a host bus access, a host bus operation
of the syntax of spec/30_encoding.md R91 and R92, and a turn of the schedule of the three agents
(spec/00_scope.md R7). Data types only. -/

namespace Sys2Proof.Machine

/-- Width of a bus access. The core accepts only `word` (R63). -/
inductive Width where
  | byte
  | half
  | word
  deriving DecidableEq, Repr

/-- One bus access as the core sees it: its width and its byte offset in the 64-byte window, 6 bits
wide (R10, R60). -/
structure Access where
  width : Width
  off : BitVec 6
  deriving DecidableEq, Repr

/-- The registers of the window (R22, R61); a block register is four words. -/
inductive Reg where
  | param
  | ctrl
  | status
  | cmd
  | mk (k : Fin 4)
  | din (k : Fin 4)
  | dout (k : Fin 4)
  deriving DecidableEq, Repr

/-- One operation of a host program (R91, R92). -/
inductive HostOp where
  /-- `WR off, v` (R91). -/
  | wr (a : Access) (v : Word)
  /-- `RD off -> name` (R91). -/
  | rd (a : Access)
  /-- Repeat `RD 0x08 -> s` until `s[bit] = want`: `WAIT` is bit 0 and want 0 (R92); waiting by
  DONE is bit 1 and want 1 (R283). -/
  | poll (bit : Fin 32) (want : Bool)
  /-- Wait until the IRQ output is asserted (R247, R283). -/
  | waitIrq
  deriving DecidableEq, Repr

/-- Whose step comes next (R7, R282): the host's next bus operation, the core's completion step, the
entropy source changing what it offers, or the hardware reset input (R270). -/
inductive Turn where
  | host
  | core
  | entropy (offer : Option Block)
  | reset
  deriving DecidableEq, Repr

end Sys2Proof.Machine
end

