-- ==== Sys2Proof/Syntax.lean ====
section
/-! DEFINITION. The commands of the core, one constructor per row of spec/opcode_table.json
(spec/30_encoding.md R85). A command is this hardware's instruction (spec/00_scope.md R18). -/

namespace Sys2Proof

/-- The seven commands (R85). Operands other than the fields named here are the fixed registers
DIN, MK, RK, CHAIN and DOUT; no command names a register (R83). -/
inductive Instr where
  /-- KEYEXP: expand MK into RK[0..10] (R143). -/
  | keyexp
  /-- ENCB: DOUT <- EncBlock(RK, DIN) (R111). -/
  | encb
  /-- DECB: DOUT <- DecBlock(RK, DIN) (R112). -/
  | decb
  /-- START: open a message with direction DIR and mode MODE (R82, R170). -/
  | start (dir : Dir) (mode : Mode)
  /-- BLOCK: process one non-final block of the open message (R172). -/
  | block
  /-- FINAL: process the final block of the open message and close it. `nb` is the field NB,
  the number of plaintext bytes valid in DIN (R83, R173). -/
  | final (nb : Nat)
  /-- ABORT: close any open message without output (R176). -/
  | abort
  deriving DecidableEq, Repr

end Sys2Proof
end

