-- ==== Sys2Proof/WellFormed.lean ====
section
/-! DEFINITION. Which commands have a word (spec/30_encoding.md R83) and which bus accesses the core
accepts (spec/20_memory.md R63). -/

namespace Sys2Proof

/-- The check NB in 0..15 (R83): the field is four bits wide. -/
def nbInRange (nb : Nat) : Bool := nb < 16

/-- A command is well formed when its operands fit the fields of the C format (R80, R83). -/
def Instr.wellFormed : Instr → Bool
  | .keyexp => true
  | .encb => true
  | .decb => true
  | .start _ _ => true
  | .block => true
  | .final nb => nbInRange nb
  | .abort => true

namespace Machine

/-- The check that an access is 32 bits wide (R63). -/
def Access.fullWidth (a : Access) : Bool := a.width == .word

/-- The check that an access's offset is a multiple of 4 (R63). -/
def Access.aligned (a : Access) : Bool := a.off.toNat % 4 == 0

/-- R63: the core accepts only 32-bit accesses at offsets that are multiples of 4. -/
def Access.wellFormed (a : Access) : Bool := a.fullWidth && a.aligned

/-- A host operation is well formed when its bus access is (R63). -/
def HostOp.wellFormed : HostOp → Bool
  | .wr a _ => a.wellFormed
  | .rd a => a.wellFormed
  | .poll _ _ => true
  | .waitIrq => true

end Machine

end Sys2Proof
end

