-- ==== Sys2Proof/Decode.lean ====
section
/-! DEFINITION. Decoding a command word and encoding a command (spec/30_encoding.md R80 to R89). -/

namespace Sys2Proof

/-! ### The fields of the C format (R80) -/

/-- R81: OP is `w[3:0]`. -/
def opField (w : Word) : BitVec 4 := w.extractLsb' 0 4

/-- R82: DIR is `w[4]`. -/
def dirField (w : Word) : Dir := Dir.ofBit (w.getLsbD 4)

/-- R82: MODE is `w[5]`. -/
def modeField (w : Word) : Mode := Mode.ofBit (w.getLsbD 5)

/-- R83: NB is `w[11:8]`, zero-extended. -/
def nbField (w : Word) : Nat := (w.extractLsb' 8 4).toNat

/-! ### Decode (R88) -/

/-- Why a word is no command, the three cases R87 names. -/
inductive Illegal where
  /-- OP is 0x0 or 0x8 to 0xF (R85). -/
  | reservedOp
  /-- Bit 7:6 or 31:12 is not 0 (R84). -/
  | reservedBit
  /-- A field the opcode does not use is not 0 (R84). -/
  | unusedField
  deriving DecidableEq, Repr

/-- The name of what makes an illegal word illegal (R87): the opcode first, then the reserved bits. -/
def illegalReason (w : Word) : Illegal :=
  if opField w = 0x0#4 ∨ 0x8#4 ≤ opField w then .reservedOp
  else if w &&& 0xFFFFF0C0#32 ≠ 0 then .reservedBit
  else .unusedField

/-- R88: the total function from any 32-bit word to a command or Illegal. It depends on no state
(R89). -/
def decode (w : Word) : Except Illegal Instr :=
  if opField w = 0x1#4 ∧ w = 0x00000001#32 then .ok .keyexp
  else if opField w = 0x2#4 ∧ w = 0x00000002#32 then .ok .encb
  else if opField w = 0x3#4 ∧ w = 0x00000003#32 then .ok .decb
  else if opField w = 0x4#4 ∧ w &&& 0xFFFFFFCF#32 = 0x00000004#32 then
    .ok (.start (dirField w) (modeField w))
  else if opField w = 0x5#4 ∧ w = 0x00000005#32 then .ok .block
  else if opField w = 0x6#4 ∧ w &&& 0xFFFFF0FF#32 = 0x00000006#32 then .ok (.final (nbField w))
  else if opField w = 0x7#4 ∧ w = 0x00000007#32 then .ok .abort
  else .error (illegalReason w)

/-- The instruction the decoder reads from a table row's word: bit 0 of `w` is the least significant
bit of the 32-bit command word, bits above `nbits` are 0. -/
def decodeTableWord (nbits w : Nat) : Option Instr :=
  let v := w % 2 ^ nbits
  if v < 2 ^ 32 then (decode (BitVec.ofNat 32 v)).toOption else none

/-! ### Encode (R86, R90) -/

/-- The word with field value `x` at bits `n` and up, 0 elsewhere (R13). -/
def fieldAt (n : Nat) {width : Nat} (x : BitVec width) : Word := x.setWidth 32 <<< n

/-- The word with one bit at position `n`, 0 elsewhere (R13). -/
def bitAt (n : Nat) (b : Bool) : Word := fieldAt n (BitVec.ofBool b)

/-- The word of a command, from the table of R86: the row's match with its fields put in place. -/
def encode : Instr → Word
  | .keyexp => 0x00000001#32
  | .encb => 0x00000002#32
  | .decb => 0x00000003#32
  | .start dir mode => 0x00000004#32 ||| bitAt 4 dir.bit ||| bitAt 5 mode.bit
  | .block => 0x00000005#32
  | .final nb => 0x00000006#32 ||| fieldAt 8 (BitVec.ofNat 32 nb)
  | .abort => 0x00000007#32

/-! ### The table of legal patterns (R86) -/

/-- One row of R86: `w` matches it iff `w &&& mask = pattern`. -/
structure OpcodeRow where
  pattern : Word
  mask : Word
  deriving DecidableEq, Repr

/-- R86: a word matches a row. -/
def OpcodeRow.matchesWord (r : OpcodeRow) (w : Word) : Bool := w &&& r.mask == r.pattern

/-- R86: the row of each command. -/
def opcodeRow : Instr → OpcodeRow
  | .keyexp => ⟨0x00000001#32, 0xFFFFFFFF#32⟩
  | .encb => ⟨0x00000002#32, 0xFFFFFFFF#32⟩
  | .decb => ⟨0x00000003#32, 0xFFFFFFFF#32⟩
  | .start _ _ => ⟨0x00000004#32, 0xFFFFFFCF#32⟩
  | .block => ⟨0x00000005#32, 0xFFFFFFFF#32⟩
  | .final _ => ⟨0x00000006#32, 0xFFFFF0FF#32⟩
  | .abort => ⟨0x00000007#32, 0xFFFFFFFF#32⟩

/-- R86: the seven rows. -/
def opcodeTable : List OpcodeRow :=
  [opcodeRow .keyexp, opcodeRow .encb, opcodeRow .decb, opcodeRow (.start .encrypt .ecb),
   opcodeRow .block, opcodeRow (.final 0), opcodeRow .abort]

end Sys2Proof
end

