-- ==== Sys2Proof/Config.lean ====
section
/-! DEFINITION. The fixed constants of the core (spec/00_scope.md R8, R10) and the parameters the
source leaves open (R9). An open parameter is an opaque constant: no proof can see what it is, so a
claim holds for every value of it. -/

namespace Sys2Proof.Config

/-- R8 `BLOCK_BYTES`. -/
def blockBytes : Nat := 16
/-- R8 `ROUNDS`. -/
def rounds : Nat := 10
/-- R8 `NKEYS`. -/
def nkeys : Nat := 11
/-- R8 `KEY_BYTES`. -/
def keyBytes : Nat := 16
/-- R8 `RK_BYTES`. -/
def rkBytes : Nat := 16
/-- R8 `IV_BYTES`. -/
def ivBytes : Nat := 16
/-- R8 `PAD_MAX`. -/
def padMax : Nat := 16
/-- R10: the register window is 64 bytes. -/
def windowBytes : Nat := 64

/-- R9, R140: the 256-bit digest, total, applied by the core to 17-byte strings only. Open (D3): the
source does not name the function. notes/assumptions/7. -/
opaque d256 : Vector Byte 17 → Vector Byte 32

/-- R9, R141: the 128-bit digest, total on every byte string. The host evaluates it, the core never
does. Open (D4). notes/assumptions/7. -/
opaque d128 : List Byte → Block

/-- R9: the latency of a command less one cycle. notes/assumptions/8. -/
opaque latLessOne : Instr → Nat

/-- R9, R282: LAT, the number of cycles a command stays BUSY: positive and unbounded above. No rule
depends on it and no step reads it. notes/assumptions/8. -/
def lat (i : Instr) : Nat := latLessOne i + 1

/-- R61: CORE_BASE, the base address of the window in the host's address space, the platform's. No
rule depends on it. notes/assumptions/8. -/
opaque coreBase : Nat

end Sys2Proof.Config
end

