-- ==== Sys2Proof/Machine/State.lean ====
section
/-! DEFINITION. The state of the core (spec/10_state.md R20 to R47) and of the agents outside it as
the step reads them, the reasons a step can stop, and the state after reset. -/

namespace Sys2Proof.Machine

/-- The result codes of STATUS.ERR (spec/60_exceptions.md R241). Codes 6 to 15 are never produced,
so they have no name here. -/
inductive ErrCode where
  | ok
  | invalidPadding
  | truncatedCiphertext
  | illegalCommand
  | noKey
  | sequence
  deriving DecidableEq, Repr

/-- Why the machine stops with a fault. -/
inductive Fault where
  /-- Raised by BLOCK in a message context R172 lists no case for ("Only these five combinations are
  reachable"): MDIR = 0 or MMODE = 0 with IVPEND = 1. No state with the invariants of R44 has one.
  Safe: the model stops where the spec gives no effect. notes/assumptions/6. -/
  | blockContext
  deriving DecidableEq, Repr

/-- Why a step has no meaning. -/
inductive Refusal where
  /-- Raised by an arm of `exec` for a command that has no meaning yet. Safe. No arm does. -/
  | notModelled (mnemonic : String)
  /-- Raised by a host bus access that is narrow or misaligned: "A model must treat such an access as
  a refusal: the host agent has no step for it" (spec/20_memory.md R63). Safe. -/
  | busAccess
  deriving DecidableEq, Repr

/-- What stands outside the core (R7): the entropy source's present offer, the host's remaining
program and what its reads returned, and whose turns come next. notes/assumptions/2, 3 and 10. -/
structure Env where
  /-- The value the entropy source offers now, none while it offers none (R171). -/
  entropy : Option Block
  /-- The host operations still to come, next first (R91). -/
  hostProg : List HostOp
  /-- What the host's `RD` operations returned, with their offsets, oldest first (R91). -/
  hostReads : List (BitVec 6 × Word)
  /-- The agents' next turns, next first; when it is empty the core moves if it can, else the host. -/
  turns : List Turn
  deriving DecidableEq, Repr

/-- The machine's state: every piece of state of spec/10_state.md R45 but the constant PARAM and the
derived IRQ output, and the environment. -/
structure State where
  ofFields ::
  /-- CTRL.IE (R25). CTRL.SRST always reads 0 and holds nothing (R26). -/
  ie : Bool
  /-- STATUS.BUSY (R28). -/
  busy : Bool
  /-- STATUS.DONE (R29). -/
  done : Bool
  /-- STATUS.OVR (R30). -/
  ovr : Bool
  /-- STATUS.ERR (R31). -/
  err : ErrCode
  /-- STATUS.KEYV (R32). -/
  keyv : Bool
  /-- STATUS.MOPEN (R33). -/
  mopen : Bool
  /-- STATUS.MDIR (R33). -/
  mdir : Dir
  /-- STATUS.MMODE (R33). -/
  mmode : Mode
  /-- STATUS.IVPEND (R33). -/
  ivpend : Bool
  /-- STATUS.OUTV (R34). -/
  outv : Bool
  /-- STATUS.PADLEN (R35). -/
  padlen : BitVec 5
  /-- MK (R38). -/
  mk : Block
  /-- DIN (R39). -/
  din : Block
  /-- DOUT (R40). -/
  dout : Block
  /-- The round-key file RK[0..10], hidden (R41). -/
  rk : RoundKeys
  /-- CHAIN, hidden (R42). -/
  chain : Block
  /-- PEND, the command word in execution, hidden; meaningful only while BUSY = 1 (R21). -/
  pend : Word
  /-- The agents outside the core. -/
  env : Env
  deriving DecidableEq, Repr

/-- The agents outside the core right after power-up, before any of them has moved: the model's own
fields. notes/assumptions/10. -/
def Env.reset : Env where
  entropy := none
  hostProg := []
  hostReads := []
  turns := []

/-- R45: the reset value of every piece of state. PEND has no value there but "no pending command";
it is 0 here (notes/assumptions/12). -/
def State.reset : State where
  ie := false
  busy := false
  done := false
  ovr := false
  err := .ok
  keyv := false
  mopen := false
  mdir := .encrypt
  mmode := .ecb
  ivpend := false
  outv := false
  padlen := 0
  mk := Block.zero
  din := Block.zero
  dout := Block.zero
  rk := Vector.replicate 11 Block.zero
  chain := Block.zero
  pend := 0
  env := Env.reset

end Sys2Proof.Machine
end

