-- ==== Sys2Proof/Machine/Flags.lean ====
section
/-! DEFINITION. The constant and status words of the window and every flag computation of the core
(spec/10_state.md R23 to R36, spec/60_exceptions.md R241 and R247). The core has no arithmetic
condition codes (R47). -/

namespace Sys2Proof.Machine

/-- R241: the code of a result in STATUS bits 7:4. -/
def ErrCode.code : ErrCode → BitVec 4
  | .ok => 0
  | .invalidPadding => 1
  | .truncatedCiphertext => 2
  | .illegalCommand => 3
  | .noKey => 4
  | .sequence => 5

/-- R18, R243: the results of a rejected command. -/
def ErrCode.rejected : ErrCode → Bool
  | .ok => false
  | .invalidPadding => false
  | .truncatedCiphertext => false
  | .illegalCommand => true
  | .noKey => true
  | .sequence => true

/-- R23: PARAM: BLOCK_BYTES at 7:0, ROUNDS at 15:8, NKEYS at 23:16, the reserved bits 0. -/
def paramWord : Word :=
  fieldAt 0 (BitVec.ofNat 8 Config.blockBytes) ||| fieldAt 8 (BitVec.ofNat 8 Config.rounds)
    ||| fieldAt 16 (BitVec.ofNat 8 Config.nkeys)

/-- R24: CTRL: IE at bit 0; SRST at bit 1 and the reserved bits read 0. -/
def ctrlWord (s : State) : Word := bitAt 0 s.ie

/-- R27: STATUS, each field at its bits, the reserved bits 0. -/
def statusWord (s : State) : Word :=
  bitAt 0 s.busy ||| bitAt 1 s.done ||| bitAt 2 s.ovr ||| fieldAt 4 s.err.code ||| bitAt 8 s.keyv
    ||| bitAt 9 s.mopen ||| bitAt 10 s.mdir.bit ||| bitAt 11 s.mmode.bit ||| bitAt 12 s.ivpend
    ||| bitAt 13 s.outv ||| fieldAt 16 s.padlen

/-- R36: what a host write of `v` to STATUS does: bit 1 clears DONE, bit 2 clears OVR. -/
def clearStatus (v : Word) (s : State) : State :=
  { s with done := s.done && !v.getLsbD 1, ovr := s.ovr && !v.getLsbD 2 }

/-- R25, R247: the interrupt line, `IRQ = CTRL.IE and STATUS.DONE`. -/
def irq (s : State) : Bool := s.ie && s.done

/-- R34: an output block is written to DOUT and OUTV is set. -/
def emitBlock (b : Block) (s : State) : State := { s with dout := b, outv := true }

/-- R34: a command without an output block clears OUTV; DOUT stands. -/
def noOutput (s : State) : State := { s with outv := false }

/-- R175, R176: DOUT <- 0, OUTV <- 0, PADLEN <- 0, as ABORT and a failing FINAL do. -/
def zeroOutput (s : State) : State := { s with dout := Block.zero, outv := false, padlen := 0 }

/-- R35: PADLEN <- `n`. -/
def setPadlen (n : Nat) (s : State) : State := { s with padlen := BitVec.ofNat 5 n }

end Sys2Proof.Machine
end

