-- ==== Sys2Proof/Machine/Operands.lean ====
section
/-! DEFINITION. The operand forms: a block register as four bus words (spec/20_memory.md R62), and
what a block command reads from DIN (spec/42_modes_padding.md R172, R174). -/

namespace Sys2Proof.Machine

/-- R62: byte `j` of a bus word is its bits `[8j+7:8j]`. -/
def byteOfWord (v : Word) (j : Nat) : Byte := v.extractLsb' (8 * j) 8

/-- R62: word `k` of a block holds bytes `4k` to `4k+3`, byte `4k` in bits 7:0. -/
def wordOfBlock (b : Block) (k : Fin 4) : Word :=
  fieldAt 0 b[4 * k.val] ||| fieldAt 8 b[4 * k.val + 1] ||| fieldAt 16 b[4 * k.val + 2]
    ||| fieldAt 24 b[4 * k.val + 3]

/-- R62, R66: a host write of word `k` of a block register: bytes `4k` to `4k+3` change. -/
def setWordOfBlock (b : Block) (k : Fin 4) (v : Word) : Block :=
  Vector.ofFn fun i : Fin 16 => if i.val / 4 = k.val then byteOfWord v (i.val % 4) else b[i.val]

/-- R12: exclusive or of two blocks, byte by byte. -/
def xorBlock (a b : Block) : Block := Vector.ofFn fun i : Fin 16 => a[i.val] ^^^ b[i.val]

/-- R174: the operand of an encrypting FINAL: the first `nb` bytes of DIN, then `16 - nb` bytes of
value `16 - nb`. DIN bytes `nb` to 15 are ignored. -/
def finalChunk (nb : Nat) (din : Block) : Block :=
  Vector.ofFn fun i : Fin 16 => if i.val < nb then din[i.val] else BitVec.ofNat 8 (16 - nb)

end Sys2Proof.Machine
end

