-- ==== Sys2Proof/Machine/Ops.lean ====
section
/-! DEFINITION. The operations the commands and the host accesses share: ending a command
(spec/60_exceptions.md R244, R245), closing a message (spec/42_modes_padding.md R169), drawing an IV
(R171), starting a command and reset (spec/70_reset_and_hazards.md R271, R280), and reading and
writing the register window (spec/20_memory.md R61 to R68). The core has no memory (R60). -/

namespace Sys2Proof.Machine

/-! ### Ending a command -/

/-- R244: `complete`. -/
def complete (s : State) : State := { s with busy := false, done := true, err := .ok }

/-- R245: `raise Error(code)`. This is all that an error of the core does: no trap is taken, nothing
is saved but the code, no control is transferred, and nothing is restored afterwards (R240, R250,
R251). -/
def raiseError (code : ErrCode) (s : State) : State :=
  { s with busy := false, done := true, err := code }

/-! ### The message context and the entropy source -/

/-- R169: `CloseMessage`. -/
def closeMessage (s : State) : State :=
  { s with mopen := false, mdir := .encrypt, mmode := .ecb, ivpend := false, chain := Block.zero }

/-- R170: a START sets the message context. -/
def openMessage (dir : Dir) (mode : Mode) (ivpend : Bool) (chain : Block) (s : State) : State :=
  { s with mopen := true, mdir := dir, mmode := mode, ivpend := ivpend, chain := chain }

/-- R42, R172: CHAIN <- `c`. -/
def setChain (c : Block) (s : State) : State := { s with chain := c }

/-- R33, R172: IVPEND <- 0, once the IV block is loaded. -/
def clearIvpend (s : State) : State := { s with ivpend := false }

/-- R32, R41, R143: RK[0..10] <- `rk` and KEYV <- 1. -/
def installKeys (rk : RoundKeys) (s : State) : State := { s with rk := rk, keyv := true }

/-- R7, R171: the entropy source changes what it offers. -/
def offerEntropy (offer : Option Block) (s : State) : State := { s with env.entropy := offer }

/-- R171: `draw IV` takes the one value the entropy source offers; the next draw needs a new offer.
None while nothing is offered. -/
def drawIV (s : State) : Option (Block × State) :=
  s.env.entropy.map fun iv => (iv, offerEntropy none s)

/-! ### Reset and the start of a command -/

/-- R271: `Reset()`, by the reset input or a soft reset: every piece of the core's state takes its
reset value; the agents outside the core are not the core's state. -/
def resetCore (s : State) : State := { State.reset with env := s.env }

/-- R30: OVR <- 1, a write was dropped. -/
def setOvr (s : State) : State := { s with ovr := true }

/-- R280: PEND <- `w` and BUSY <- 1; DONE is not cleared. -/
def acceptCommand (w : Word) (s : State) : State := { s with pend := w, busy := true }

/-- R280: `StartCommand(w)`. -/
def startCommand (w : Word) (s : State) : State :=
  if s.busy then setOvr s else acceptCommand w s

/-! ### The register window -/

/-- R61, R63: the register an access reaches: an aligned 32-bit access reaches the one at its offset,
any other none. -/
def regAt (a : Access) : Option Reg :=
  match a.width with
  | .byte => none
  | .half => none
  | .word =>
    match a.off.toNat with
    | 0x00 => some .param
    | 0x04 => some .ctrl
    | 0x08 => some .status
    | 0x0C => some .cmd
    | 0x10 => some (.mk 0)
    | 0x14 => some (.mk 1)
    | 0x18 => some (.mk 2)
    | 0x1C => some (.mk 3)
    | 0x20 => some (.din 0)
    | 0x24 => some (.din 1)
    | 0x28 => some (.din 2)
    | 0x2C => some (.din 3)
    | 0x30 => some (.dout 0)
    | 0x34 => some (.dout 1)
    | 0x38 => some (.dout 2)
    | 0x3C => some (.dout 3)
    | _ => none

/-- R22, R64, R65: what a read of a register returns; CMD and MK read 0. It is a function of the
state and changes nothing. -/
def readReg (r : Reg) (s : State) : Word :=
  match r with
  | .param => paramWord
  | .ctrl => ctrlWord s
  | .status => statusWord s
  | .cmd => 0
  | .mk _ => 0
  | .din k => wordOfBlock s.din k
  | .dout k => wordOfBlock s.dout k

/-- R25: CTRL.IE <- `b`. -/
def setIe (b : Bool) (s : State) : State := { s with ie := b }

/-- R38: MK <- `b`. -/
def setMk (b : Block) (s : State) : State := { s with mk := b }

/-- R39: DIN <- `b`. -/
def setDin (b : Block) (s : State) : State := { s with din := b }

/-- R24 to R26, R66: a write to CTRL: bit 1 performs the reset in place of the write, else IE takes
bit 0. It is accepted while BUSY = 1 (R67). -/
def writeCtrl (v : Word) (s : State) : State :=
  if v.getLsbD 1 then resetCore s else setIe (v.getLsbD 0) s

/-- R66, R67: a write to a word of MK, dropped with OVR <- 1 while BUSY = 1. -/
def writeMk (k : Fin 4) (v : Word) (s : State) : State :=
  if s.busy then setOvr s else setMk (setWordOfBlock s.mk k v) s

/-- R66, R67: a write to a word of DIN, dropped with OVR <- 1 while BUSY = 1. -/
def writeDin (k : Fin 4) (v : Word) (s : State) : State :=
  if s.busy then setOvr s else setDin (setWordOfBlock s.din k v) s

/-- R66, R67: a host write of a register, whole 32-bit words only. Writes to PARAM and DOUT are
ignored and set no OVR (R64). -/
def writeReg (r : Reg) (v : Word) (s : State) : State :=
  match r with
  | .param => s
  | .ctrl => writeCtrl v s
  | .status => clearStatus v s
  | .cmd => startCommand v s
  | .mk k => writeMk k v s
  | .din k => writeDin k v s
  | .dout _ => s

/-- R61, R91: the host address of a window offset, `CORE_BASE + off`. -/
def busAddress (off : BitVec 6) : Nat := Config.coreBase + off.toNat

/-- R60, R61: the window offset of a host address; none outside the 64 bytes of the window, where no
access reaches the core. -/
def windowOffset (addr : Nat) : Option (BitVec 6) :=
  if Config.coreBase ≤ addr ∧ addr < Config.coreBase + Config.windowBytes then
    some (BitVec.ofNat 6 (addr - Config.coreBase))
  else none

end Sys2Proof.Machine
end

