-- ==== Sys2Proof/Machine/KeySchedule.lean ====
section
/-! DEFINITION. The key schedule and KEYEXP (spec/41_key_schedule.md R140 to R145). -/

namespace Sys2Proof.Machine

/-- R142: the digest input `k[i] ++ byte(i)`, 17 bytes, the index byte last. -/
def digestInput (k : Block) (i : Nat) : Vector Byte 17 := k.push (BitVec.ofNat 8 i)

/-- R142: bytes 0 to 15 of a 32-byte digest. -/
def first16 (d : Vector Byte 32) : Block := Vector.ofFn fun i : Fin 16 => d[i.val]

/-- R142: `k[i]` of the expansion of `mk` under a given 256-bit digest. -/
def expandedKey (digest : Vector Byte 17 → Vector Byte 32) (mk : Block) : Nat → Block
  | 0 => mk
  | i + 1 => first16 (digest (digestInput (expandedKey digest mk i) i))

/-- R142: KeyExpand under a given 256-bit digest. -/
def keyExpandWith (digest : Vector Byte 17 → Vector Byte 32) (mk : Block) : RoundKeys :=
  Vector.ofFn fun i : Fin 11 => expandedKey digest mk i.val

/-- R142: KeyExpand, under the open digest D256 (R140). -/
def keyExpand (mk : Block) : RoundKeys := keyExpandWith Config.d256 mk

/-- R143: KEYEXP expands MK into the round-key file; SEQUENCE while a message is open. -/
def execKeyexp (s : State) : Host.Outcome State Fault Refusal :=
  if s.mopen then .next (raiseError .sequence s)
  else .next (complete (setPadlen 0 (noOutput (installKeys (keyExpand s.mk) s))))

end Sys2Proof.Machine
end

