-- ==== Sys2Proof/Machine/Cipher.lean ====
section
/-! DEFINITION. The round transform, block encryption and decryption, and the single-block commands
ENCB and DECB (spec/40_round_transform.md R100 to R112). -/

namespace Sys2Proof.Machine

/-! ### The four layers, each with its inverse (R100) -/

/-- R101: Substitute, `y = (3x + 7) mod 256` on each byte. -/
def sub (b : Block) : Block := Vector.ofFn fun i : Fin 16 => 3 * b[i.val] + 7

/-- R102: InverseSubstitute, `x = ((y - 7) * 171) mod 256` on each byte. -/
def invSub (b : Block) : Block := Vector.ofFn fun i : Fin 16 => (b[i.val] - 7) * 171

/-- R103: Permute, row `r` of the 4 by 4 row-major matrix rotated left by `r`. -/
def perm (b : Block) : Block :=
  Vector.ofFn fun i : Fin 16 =>
    let r := i.val / 4
    let c := i.val % 4
    b[4 * r + (c + r) % 4]'(by omega)

/-- R104: InversePermute, row `r` rotated right by `r`; `(c - r) mod 4` is the non-negative residue. -/
def invPerm (b : Block) : Block :=
  Vector.ofFn fun i : Fin 16 =>
    let r := i.val / 4
    let c := i.val % 4
    b[4 * r + (c + 4 - r) % 4]'(by omega)

/-- R105: the first pass of Mix: `new[i] = old[i] + old[i+1]` for i = 0 to 14, every read of the
pre-mix value. -/
def mixPass (old : Block) : Block :=
  Vector.ofFn fun i : Fin 16 =>
    if h : i.val < 15 then old[i.val] + old[i.val + 1] else old[i.val]

/-- R105: Mix: the pass, then the wrap-around step with the already updated `new[0]`. -/
def mix (old : Block) : Block :=
  let new := mixPass old
  new.set 15 (new[15] + new[0])

/-- R106: the loop of InverseMix, for i = n-1 down to 0: `u[i] = u[i] - u[i+1]`, `u[i+1]` already
restored. -/
def invMixLoop : (n : Nat) → n ≤ 15 → Block → Block
  | 0, _, u => u
  | n + 1, h, u => invMixLoop n (by omega) (u.set n (u[n] - u[n + 1]))

/-- R106: InverseMix: the wrap step first, on the still mixed byte 0, then the loop from 14 down. -/
def invMix (new : Block) : Block :=
  invMixLoop 15 (by omega) (new.set 15 (new[15] - new[0]))

/-- R107: round-key injection, bytewise exclusive or with a round key. -/
def addRK (b k : Block) : Block := xorBlock b k

/-! ### Blocks -/

/-- R108, R109: the round numbers 1 to 10. -/
def roundNumbers : List (Fin 11) := [1, 2, 3, 4, 5, 6, 7, 8, 9, 10]

/-- R108: one encryption round: Substitute, Permute, Mix, then the round key. -/
def encRound (k s : Block) : Block := addRK (mix (perm (sub s))) k

/-- R109: one decryption round: the round key, then the inverse layers in reverse order. -/
def decRound (k s : Block) : Block := invSub (invPerm (invMix (addRK s k)))

/-- R108: EncBlock: the whitening key RK[0], then rounds 1 to 10, all alike. -/
def encBlock (rk : RoundKeys) (p : Block) : Block :=
  roundNumbers.foldl (fun s r => encRound rk[r.val] s) (addRK p rk[0])

/-- R109: DecBlock: rounds 10 down to 1, then RK[0]. -/
def decBlock (rk : RoundKeys) (c : Block) : Block :=
  addRK (roundNumbers.foldr (fun r s => decRound rk[r.val] s) c) rk[0]

/-! ### The commands -/

/-- R111, R112: what ENCB and DECB share: NO_KEY without a key, else the block `b` is put out and
PADLEN cleared. -/
def singleBlock (b : Block) (s : State) : Host.Outcome State Fault Refusal :=
  if s.keyv then .next (complete (setPadlen 0 (emitBlock b s))) else .next (raiseError .noKey s)

/-- R111: ENCB encrypts DIN as one block, with no mode and no padding. -/
def execEncb (s : State) : Host.Outcome State Fault Refusal := singleBlock (encBlock s.rk s.din) s

/-- R112: DECB decrypts DIN as one block, with no mode and no padding check. -/
def execDecb (s : State) : Host.Outcome State Fault Refusal := singleBlock (decBlock s.rk s.din) s

end Sys2Proof.Machine
end

