-- ==== Sys2Proof/Machine/Message.lean ====
section
/-! DEFINITION. The padding check and the mode controller's commands START, BLOCK, FINAL and ABORT
(spec/42_modes_padding.md R162, R169 to R176). -/

namespace Sys2Proof.Machine

/-- R162: PadCheck on a final plaintext block: the pad length, or none for Bad. -/
def padCheck (p : Block) : Option Nat :=
  let n := p[15].toNat
  if n = 0 ∨ 16 < n then none
  else if (List.finRange 16).any fun j => 16 - n ≤ j.val && p[j.val] != p[15] then none
  else some n

/-! ### START -/

/-- R170: the checks of START: SEQUENCE with a message open, NO_KEY without a key, else the message is
open as in `opened` and PADLEN is cleared. -/
def checkStart (opened s : State) : Host.Outcome State Fault Refusal :=
  if s.mopen then .next (raiseError .sequence s)
  else if !s.keyv then .next (raiseError .noKey s)
  else .next (complete (setPadlen 0 opened))

/-- R170: START of a CBC encryption: the drawn IV becomes CHAIN and the first output block. Its
completion step is enabled only while the entropy source offers a value (R171, R281): until then
nothing changes and the command stays BUSY (R289; notes/assumptions/5). A rejected START draws nothing,
since its pseudocode raises the error first (notes/assumptions/4). -/
def startCbcEncrypt (s : State) : Host.Outcome State Fault Refusal :=
  match drawIV s with
  | some (iv, t) => checkStart (emitBlock iv (openMessage .encrypt .cbc false iv t)) s
  | none => .next s

/-- R170: START of a CBC decryption: the first BLOCK will carry the IV. -/
def startCbcDecrypt (s : State) : Host.Outcome State Fault Refusal :=
  checkStart (noOutput (openMessage .decrypt .cbc true Block.zero s)) s

/-- R170: START of an ECB message, in either direction. -/
def startEcb (dir : Dir) (s : State) : Host.Outcome State Fault Refusal :=
  checkStart (noOutput (openMessage dir .ecb false Block.zero s)) s

/-- R170: START opens a message. -/
def execStart (dir : Dir) (mode : Mode) (s : State) : Host.Outcome State Fault Refusal :=
  match dir, mode with
  | .encrypt, .cbc => startCbcEncrypt s
  | .decrypt, .cbc => startCbcDecrypt s
  | .encrypt, .ecb => startEcb .encrypt s
  | .decrypt, .ecb => startEcb .decrypt s

/-! ### BLOCK -/

/-- R172: the end of a BLOCK that puts a block out and leaves a chaining value. -/
def blockDone (out chain : Block) (s : State) : Host.Outcome State Fault Refusal :=
  .next (complete (setPadlen 0 (emitBlock out (setChain chain s))))

/-- R172: the BLOCK that loads the IV of a CBC decryption: no output. -/
def blockLoadIV (s : State) : Host.Outcome State Fault Refusal :=
  .next (complete (setPadlen 0 (noOutput (clearIvpend (setChain s.din s)))))

/-- R172: BLOCK processes one non-final block of the open message. In CBC the exclusive or reads the
CHAIN of before the command; in ECB CHAIN is not written. -/
def execBlock (s : State) : Host.Outcome State Fault Refusal :=
  if !s.mopen then .next (raiseError .sequence s)
  else
    match s.mdir, s.mmode, s.ivpend with
    | .encrypt, .ecb, false => blockDone (encBlock s.rk s.din) s.chain s
    | .encrypt, .cbc, false =>
      let c := encBlock s.rk (xorBlock s.din s.chain)
      blockDone c c s
    | .decrypt, .ecb, false => blockDone (decBlock s.rk s.din) s.chain s
    | .decrypt, .cbc, true => blockLoadIV s
    | .decrypt, .cbc, false => blockDone (xorBlock (decBlock s.rk s.din) s.chain) s.din s
    | .encrypt, .ecb, true => .fault .blockContext
    | .encrypt, .cbc, true => .fault .blockContext
    | .decrypt, .ecb, true => .fault .blockContext

/-! ### FINAL -/

/-- R174, R175: a block before encryption or after decryption is chained in CBC only. -/
def chained (b : Block) (s : State) : Block :=
  match s.mmode with
  | .ecb => b
  | .cbc => xorBlock b s.chain

/-- R174: FINAL in an encrypting message pads the first `nb` bytes of DIN and encrypts them. -/
def finalEnc (nb : Nat) (s : State) : Host.Outcome State Fault Refusal :=
  .next (complete (closeMessage (setPadlen 0
    (emitBlock (encBlock s.rk (chained (finalChunk nb s.din) s)) s))))

/-- R175: FINAL in a decrypting message decrypts the last block and checks its padding. The message
is closed in every outcome, and a failing block is not exposed. -/
def finalDec (s : State) : Host.Outcome State Fault Refusal :=
  if s.ivpend then .next (raiseError .truncatedCiphertext (zeroOutput (closeMessage s)))
  else
    let q := chained (decBlock s.rk s.din) s
    match padCheck q with
    | some n => .next (complete (setPadlen n (emitBlock q (closeMessage s))))
    | none => .next (raiseError .invalidPadding (zeroOutput (closeMessage s)))

/-- R173: FINAL processes the final block of the open message and closes it. -/
def execFinal (nb : Nat) (s : State) : Host.Outcome State Fault Refusal :=
  if !s.mopen then .next (raiseError .sequence s)
  else
    match s.mdir with
    | .encrypt => finalEnc nb s
    | .decrypt => if nb = 0 then finalDec s else .next (raiseError .illegalCommand s)

/-! ### ABORT -/

/-- R176: ABORT closes any open message without output; with none open it only clears the output. -/
def execAbort (s : State) : Host.Outcome State Fault Refusal :=
  .next (complete (zeroOutput (closeMessage s)))

end Sys2Proof.Machine
end

