-- ==== Sys2Proof/Machine/Dispatch.lean ====
section
/-! DEFINITION. One arm per command: the meaning of each (spec/70_reset_and_hazards.md R281). -/

namespace Sys2Proof.Machine

/-- R281: the pseudocode of a command's rule, run at the completion step. -/
def exec (i : Instr) (s : State) : Host.Outcome State Fault Refusal :=
  match i with
  | .keyexp => Sys2Proof.Machine.execKeyexp s
  | .encb => Sys2Proof.Machine.execEncb s
  | .decb => Sys2Proof.Machine.execDecb s
  | .start dir mode => Sys2Proof.Machine.execStart dir mode s
  | .block => Sys2Proof.Machine.execBlock s
  | .final nb => Sys2Proof.Machine.execFinal nb s
  | .abort => Sys2Proof.Machine.execAbort s

end Sys2Proof.Machine
end

