-- ==== Sys2Proof/Machine/Agents.lean ====
section
/-! DEFINITION. The steps of the three agents (spec/00_scope.md R7): the core's completion step
(spec/70_reset_and_hazards.md R281), the host's next bus operation (spec/30_encoding.md R91, R92), the
entropy source's offer, and the order in which they move (R282; notes/assumptions/2). -/

namespace Sys2Proof.Machine

/-! ### The core -/

/-- R281: the completion step. While BUSY = 1 the command in PEND is decoded and run; an illegal word
ends with ILLEGAL_COMMAND. While BUSY = 0 the core has no step and nothing changes (R272). -/
def coreStep (s : State) : Host.Outcome State Fault Refusal :=
  if s.busy then
    match decode s.pend with
    | .ok i => exec i s
    | .error _ => .next (raiseError .illegalCommand s)
  else .next s

/-- R171, R281, R289: a CBC-encrypting START is pending and the entropy source offers nothing, whether
the START would open a message or be rejected. -/
def awaitsEntropy (s : State) : Bool :=
  (decode s.pend).toOption == some (.start .encrypt .cbc) && s.env.entropy.isNone

/-- R281: the completion step is enabled whenever BUSY = 1, but for a START that waits for its IV. -/
def coreEnabled (s : State) : Bool := s.busy && !awaitsEntropy s

/-! ### The host -/

/-- R91: the host has done its next operation and goes on with `rest`. -/
def hostGoesOn (rest : List HostOp) (s : State) : State := { s with env.hostProg := rest }

/-- R91: `RD off -> name`: the value read is the host's. No read changes the core (R65). -/
def hostRead (a : Access) (r : Reg) (s : State) : State :=
  { s with env.hostReads := s.env.hostReads ++ [(a.off, readReg r s)] }

/-- R70, R91, R92: the host's next operation, one bus access. A narrow or misaligned access has no
step (R63). A `poll` or `waitIrq` that does not yet see what it waits for stays in place: the host
will look again at its next turn. -/
def hostStep (s : State) : Host.Outcome State Fault Refusal :=
  match s.env.hostProg with
  | [] => .next s
  | .wr a v :: rest =>
    match regAt a with
    | some r => .next (writeReg r v (hostGoesOn rest s))
    | none => .refused .busAccess
  | .rd a :: rest =>
    match regAt a with
    | some r => .next (hostRead a r (hostGoesOn rest s))
    | none => .refused .busAccess
  | .poll bit want :: rest =>
    if (statusWord s).getLsbD bit.val = want then .next (hostGoesOn rest s) else .next s
  | .waitIrq :: rest => if irq s then .next (hostGoesOn rest s) else .next s

/-! ### Whose turn it is -/

/-- The turns still to come after this one. -/
def setTurns (ts : List Turn) (s : State) : State := { s with env.turns := ts }

/-- R282: the next turn and the state once it is taken off the schedule. With no turn scheduled the
core moves if its step is enabled, else the host. -/
def takeTurn (s : State) : Turn × State :=
  match s.env.turns with
  | t :: ts => (t, setTurns ts s)
  | [] => (if coreEnabled s then .core else .host, s)

/-- R7: one agent takes its step. -/
def agentStep (t : Turn) (s : State) : Host.Outcome State Fault Refusal :=
  match t with
  | .core => coreStep s
  | .host => hostStep s
  | .entropy offer => .next (offerEntropy offer s)
  | .reset => .next (resetCore s)

/-- The command word `w` accepted (R280) with the core's turn next: what a host write of CMD and the
choice of the core's completion step leave. -/
def placeCommand (w : Word) (s : State) : State :=
  setTurns (.core :: s.env.turns) (acceptCommand w s)

end Sys2Proof.Machine
end

