-- ==== Sys2Proof/Machine/Step.lean ====
section
/-! DEFINITION. One step of the machine, and the placing of a command where the next step runs it. -/

namespace Sys2Proof.Machine

/-- One step: the agent whose turn it is moves (spec/00_scope.md R7, spec/70_reset_and_hazards.md
R282). -/
def step (s : State) : Host.Outcome State Fault Refusal :=
  agentStep (takeTurn s).1 (takeTurn s).2

/-- `s` with the command word `w` in PEND, BUSY = 1 and the core's turn next, so that the next step
runs it. The core fetches nothing (R21, R72): this stands for the host's accepted CMD write.
notes/assumptions/9. -/
def State.withFetchWord (s : State) (nbits w : Nat) : State :=
  placeCommand (BitVec.ofNat 32 (w % 2 ^ nbits)) s

end Sys2Proof.Machine
end

