-- ==== Sys2Proof/Machine/Modes.lean ====
section
/-! DEFINITION. Padding and the modes at message level, pure functions
(spec/42_modes_padding.md R160, R161, R164 to R167). -/

namespace Sys2Proof.Machine

/-! ### Byte strings and blocks (R11) -/

/-- R11: the bytes of a block, byte 0 first. -/
def bytesOfBlock (b : Block) : List Byte := b.toList

/-- The block of the first 16 bytes of a byte string, filled up with 0x00 where it is shorter. -/
def blockOfBytes (l : List Byte) : Block := Vector.ofFn fun i : Fin 16 => l.getD i.val 0

/-- The first `n` 16-byte blocks of a byte string. -/
def toBlocks : Nat → List Byte → List Block
  | 0, _ => []
  | n + 1, l => blockOfBytes l :: toBlocks n (l.drop 16)

/-- The concatenation of blocks, in order. -/
def fromBlocks (bs : List Block) : List Byte := (bs.map bytesOfBlock).flatten

/-! ### Padding -/

/-- R160: Pad appends `16 - (len mod 16)` bytes of that value, always at least one. -/
def pad (data : List Byte) : List Byte :=
  let n := 16 - data.length % 16
  data ++ List.replicate n (BitVec.ofNat 8 n)

/-- R161: Unpad removes the padding, or fails (none) with InvalidPadding. The source defines it on
positive multiples of 16 bytes. -/
def unpad (data : List Byte) : Option (List Byte) :=
  let n := (data.getD (data.length - 1) 0).toNat
  if n = 0 ∨ 16 < n then none
  else if (data.drop (data.length - n)).any fun x => x.toNat != n then none
  else some (data.take (data.length - n))

/-! ### Modes -/

/-- The blocks of a padded plaintext (R164, R165). -/
def paddedBlocks (p : List Byte) : List Block := toBlocks ((pad p).length / 16) (pad p)

/-- R164: ECB encryption: each block alone. -/
def encEcb (rk : RoundKeys) (p : List Byte) : List Block := (paddedBlocks p).map (encBlock rk)

/-- R165: the chain `C_j = EncBlock(RK, Q_j xor C_(j-1))` after `C_0 = prev`. -/
def encCbcFrom (rk : RoundKeys) (prev : Block) : List Block → List Block
  | [] => []
  | q :: qs =>
    let c := encBlock rk (xorBlock q prev)
    c :: encCbcFrom rk c qs

/-- R165: CBC encryption under an IV, which is `C_0` and the first block of the result. -/
def encCbc (rk : RoundKeys) (iv : Block) (p : List Byte) : List Block :=
  iv :: encCbcFrom rk iv (paddedBlocks p)

/-- R166: ECB decryption of the blocks of a ciphertext; none is InvalidPadding. -/
def decEcb (rk : RoundKeys) (cs : List Block) : Option (List Byte) :=
  unpad (fromBlocks (cs.map (decBlock rk)))

/-- R167: `Q_j = DecBlock(RK, C_j) xor C_(j-1)` after `C_0 = prev`; the ciphertext block becomes the
previous one. -/
def decCbcFrom (rk : RoundKeys) (prev : Block) : List Block → List Block
  | [] => []
  | c :: cs => xorBlock (decBlock rk c) prev :: decCbcFrom rk c cs

/-- R167: CBC decryption of `C_0 .. C_m`, `C_0` the IV; none is InvalidPadding. With m = 0 the
decryption fails (TruncatedCiphertext, R219). -/
def decCbc (rk : RoundKeys) : List Block → Option (List Byte)
  | [] => none
  | [_] => none
  | iv :: c :: cs => unpad (fromBlocks (decCbcFrom rk iv (c :: cs)))

end Sys2Proof.Machine
end

