-- ==== Sys2Proof/Machine/Encoder.lean ====
section
/-! DEFINITION. The host's encoders: UTF-8 (spec/45_host_contract.md R211), hexadecimal (R215, R216)
and the length check of a ciphertext (R219). A text is a list of characters. -/

namespace Sys2Proof.Machine

/-! ### UTF-8 (R211; the standard definition, notes/assumptions/13) -/

/-- The UTF-8 bytes of one character. -/
def utf8Char (c : Char) : List Byte :=
  let n := c.toNat
  if n < 0x80 then [BitVec.ofNat 8 n]
  else if n < 0x800 then [BitVec.ofNat 8 (0xC0 + n / 64), BitVec.ofNat 8 (0x80 + n % 64)]
  else if n < 0x10000 then
    [BitVec.ofNat 8 (0xE0 + n / 4096), BitVec.ofNat 8 (0x80 + n / 64 % 64),
     BitVec.ofNat 8 (0x80 + n % 64)]
  else
    [BitVec.ofNat 8 (0xF0 + n / 262144), BitVec.ofNat 8 (0x80 + n / 4096 % 64),
     BitVec.ofNat 8 (0x80 + n / 64 % 64), BitVec.ofNat 8 (0x80 + n % 64)]

/-- R211: the UTF-8 bytes of a text. -/
def utf8 (text : List Char) : List Byte := text.flatMap utf8Char

/-- The payload of a continuation byte 0x80 to 0xBF. -/
def continuation (b : Byte) : Option Nat :=
  if 0x80 ≤ b.toNat ∧ b.toNat < 0xC0 then some (b.toNat - 0x80) else none

/-- The character of a code point of at least `least`: no overlong form, no surrogate, nothing above
0x10FFFF. -/
def charAt (least n : Nat) : Option Char :=
  if least ≤ n ∧ n.isValidChar then some (Char.ofNat n) else none

/-- The first character of a well-formed UTF-8 string and the bytes after it. -/
def utf8Next : List Byte → Option (Char × List Byte)
  | [] => none
  | a :: rest =>
    let n := a.toNat
    if n < 0x80 then (charAt 0 n).map fun c => (c, rest)
    else if 0xC0 ≤ n ∧ n < 0xE0 then
      match rest with
      | b :: rest => do
        let x ← continuation b
        let c ← charAt 0x80 ((n - 0xC0) * 64 + x)
        some (c, rest)
      | _ => none
    else if 0xE0 ≤ n ∧ n < 0xF0 then
      match rest with
      | b :: d :: rest => do
        let x ← continuation b
        let y ← continuation d
        let c ← charAt 0x800 ((n - 0xE0) * 4096 + x * 64 + y)
        some (c, rest)
      | _ => none
    else if 0xF0 ≤ n ∧ n < 0xF8 then
      match rest with
      | b :: d :: e :: rest => do
        let x ← continuation b
        let y ← continuation d
        let z ← continuation e
        let c ← charAt 0x10000 ((n - 0xF0) * 262144 + x * 4096 + y * 64 + z)
        some (c, rest)
      | _ => none
    else none

/-- The text of at most `fuel` characters that a byte string is, none where it is not valid UTF-8. -/
def utf8DecodeFuel : Nat → List Byte → Option (List Char)
  | _, [] => some []
  | 0, _ :: _ => none
  | fuel + 1, a :: l =>
    match utf8Next (a :: l) with
    | some (c, rest) => (utf8DecodeFuel fuel rest).map (c :: ·)
    | none => none

/-- R211: a byte string decoded as UTF-8; none is EncodingError. -/
def utf8Decode (l : List Byte) : Option (List Char) := utf8DecodeFuel l.length l

/-! ### Hexadecimal -/

/-- R215: the lowercase digit of a nibble. -/
def hexDigit (n : Nat) : Char :=
  if n < 10 then Char.ofNat ('0'.toNat + n) else Char.ofNat ('a'.toNat + (n - 10))

/-- R215: two lowercase digits for each byte, the high nibble first. -/
def hexEncode (l : List Byte) : List Char :=
  l.flatMap fun b => [hexDigit (b.toNat / 16), hexDigit (b.toNat % 16)]

/-- R216: the value of a digit `0-9`, `a-f` or `A-F`. -/
def hexValue (c : Char) : Option Nat :=
  if '0' ≤ c ∧ c ≤ '9' then some (c.toNat - '0'.toNat)
  else if 'a' ≤ c ∧ c ≤ 'f' then some (c.toNat - 'a'.toNat + 10)
  else if 'A' ≤ c ∧ c ≤ 'F' then some (c.toNat - 'A'.toNat + 10)
  else none

/-- R216: HexDecode; none (an odd length or a character that is no digit) is MalformedHex. -/
def hexDecode : List Char → Option (List Byte)
  | [] => some []
  | [_] => none
  | a :: b :: rest => do
    let h ← hexValue a
    let l ← hexValue b
    let t ← hexDecode rest
    some (BitVec.ofNat 8 (16 * h + l) :: t)

/-! ### The length check -/

/-- R219: LengthCheck: a whole number of blocks, at least two in CBC (the IV and one block) and at
least one in ECB. False is TruncatedCiphertext. -/
def lengthCheck (c : List Byte) (mode : Mode) : Bool :=
  match mode with
  | .ecb => c.length % 16 == 0 && c.length != 0
  | .cbc => c.length % 16 == 0 && 32 ≤ c.length

end Sys2Proof.Machine
end

