-- ==== Sys2Proof/Machine/HostContract.lean ====
section
/-! DEFINITION. The host procedures Construct, Encrypt and Decrypt on the core
(spec/45_host_contract.md R210 to R221, and R224 over them), each DO run to the command's completion before the host goes
on (notes/assumptions/14). -/

namespace Sys2Proof.Machine

/-- R221: the results of a failing host procedure. -/
inductive HostError where
  /-- `InvalidPadding`. -/
  | invalidPadding
  /-- `MalformedHex`. -/
  | malformedHex
  /-- `TruncatedCiphertext`. -/
  | truncatedCiphertext
  /-- `EncodingError`. -/
  | encodingError
  /-- A command of a procedure was rejected: a fault of the host program (R221). -/
  | rejectedCommand
  /-- The command stays BUSY: the entropy source delivers nothing (R289). -/
  | stalled
  /-- The core's step stopped. -/
  | coreStopped
  deriving DecidableEq, Repr


/-! ### The pseudo-instructions as a host runs them (R92) -/

/-- R92: `WAIT`: the core moves until BUSY = 0. -/
def waitIdle (s : State) : Except HostError State :=
  if s.busy then
    match coreStep s with
    | .next t => if t.busy then .error .stalled else .ok t
    | .fault _ => .error .coreStopped
    | .refused _ => .error .coreStopped
  else .ok s

/-- R92: `DO <command>`: the CMD write, then WAIT. A rejected command is a fault of the procedure
(R221). -/
def doCommand (i : Instr) (s : State) : Except HostError State :=
  match waitIdle (writeReg .cmd (encode i) s) with
  | .ok t => if t.err.rejected then .error .rejectedCommand else .ok t
  | .error e => .error e

/-- R92: `LDKEY k`: the four MK words in order. -/
def loadKey (k : Block) (s : State) : State :=
  writeReg (.mk 3) (wordOfBlock k 3) (writeReg (.mk 2) (wordOfBlock k 2)
    (writeReg (.mk 1) (wordOfBlock k 1) (writeReg (.mk 0) (wordOfBlock k 0) s)))

/-- R92: `LDBLK b`: the four DIN words in order. -/
def loadBlock (b : Block) (s : State) : State :=
  writeReg (.din 3) (wordOfBlock b 3) (writeReg (.din 2) (wordOfBlock b 2)
    (writeReg (.din 1) (wordOfBlock b 1) (writeReg (.din 0) (wordOfBlock b 0) s)))

/-- R62, R92: the block of four bus words, word 0 first. -/
def packWords (w0 w1 w2 w3 : Word) : Block :=
  setWordOfBlock (setWordOfBlock (setWordOfBlock (setWordOfBlock Block.zero 0 w0) 1 w1) 2 w2) 3 w3

/-- R92: `RDBLK -> name`: the four DOUT words, unpacked. -/
def readBlock (s : State) : Block :=
  packWords (readReg (.dout 0) s) (readReg (.dout 1) s) (readReg (.dout 2) s) (readReg (.dout 3) s)

/-- A bit of STATUS as the host reads it (R27). -/
def statusBit (n : Nat) (s : State) : Bool := (readReg .status s).getLsbD n

/-- R27: STATUS.ERR as the host reads it. -/
def statusErr (s : State) : Nat := ((readReg .status s).extractLsb' 4 4).toNat

/-- R27: STATUS.PADLEN as the host reads it. -/
def statusPadlen (s : State) : Nat := ((readReg .status s).extractLsb' 16 5).toNat

/-! ### Construct (R212) -/

/-- R212: Construct(keyText). STATUS bit 9 is MOPEN. -/
def construct (keyText : List Char) (s : State) : Except HostError State := do
  let s ← waitIdle s
  let s ← if statusBit 9 s then doCommand .abort s else .ok s
  doCommand .keyexp (loadKey (Config.d128 (utf8 keyText)) s)

/-! ### Encrypt (R213) -/

/-- R213: the loop over the full blocks of the plaintext. -/
def encryptBlocks : List Block → State → Except HostError ((List Block) × State)
  | [], s => .ok ([], s)
  | b :: bs, s => do
    let s ← doCommand .block (loadBlock b s)
    let (cs, t) ← encryptBlocks bs s
    .ok (readBlock s :: cs, t)

/-- R213: what Encrypt reads after its START: the IV in CBC, nothing in ECB. -/
def readIV (mode : Mode) (s : State) : List Block :=
  match mode with
  | .ecb => []
  | .cbc => [readBlock s]

/-- R213: Encrypt up to the hex encoding: the blocks of the ciphertext. -/
def encryptToBlocks (p : List Byte) (mode : Mode) (s : State) : Except HostError ((List Block) × State) := do
  let m := p.length / 16
  let s ← doCommand (.start .encrypt mode) s
  let iv := readIV mode s
  let (cs, s) ← encryptBlocks (toBlocks m p) s
  let s ← doCommand (.final (p.length % 16)) (loadBlock (blockOfBytes (p.drop (16 * m))) s)
  .ok (iv ++ cs ++ [readBlock s], s)

/-- R213: Encrypt of plaintext bytes. The wire formats are R217 and R218. -/
def encrypt (p : List Byte) (mode : Mode) (s : State) : Except HostError ((List Char) × State) := do
  let (cs, s) ← encryptToBlocks p mode s
  .ok (hexEncode (fromBlocks cs), s)

/-- R211, R213: Encrypt of a plaintext given as text. -/
def encryptText (text : List Char) (mode : Mode) (s : State) : Except HostError ((List Char) × State) :=
  encrypt (utf8 text) mode s

/-! ### Decrypt (R214) -/

/-- R214: the loop over all blocks but the last: a block is read where OUTV (bit 13) is 1. -/
def decryptBlocks : List Block → State → Except HostError ((List Block) × State)
  | [], s => .ok ([], s)
  | c :: cs, s => do
    let s ← doCommand .block (loadBlock c s)
    let q := if statusBit 13 s then [readBlock s] else []
    let (qs, t) ← decryptBlocks cs s
    .ok (q ++ qs, t)

/-- R214, R220: what the host does with its buffer after FINAL: on a failure it is discarded whole,
else the last block is trimmed by PADLEN. -/
def finishDecrypt (buf : List Block) (s : State) : Except HostError ((List Byte) × State) :=
  if statusErr s = 1 then .error .invalidPadding
  else if statusErr s = 2 then .error .truncatedCiphertext
  else .ok (fromBlocks buf ++ (bytesOfBlock (readBlock s)).take (16 - statusPadlen s), s)

/-- R214: Decrypt of ciphertext bytes that passed LengthCheck. -/
def decryptFromBytes (c : List Byte) (mode : Mode) (s : State) : Except HostError ((List Byte) × State) := do
  let n := c.length / 16
  let s ← doCommand (.start .decrypt mode) s
  let (buf, s) ← decryptBlocks (toBlocks (n - 1) c) s
  let s ← doCommand (.final 0) (loadBlock (blockOfBytes (c.drop (16 * (n - 1)))) s)
  finishDecrypt buf s

/-- R214: Decrypt to bytes. -/
def decrypt (hex : List Char) (mode : Mode) (s : State) : Except HostError ((List Byte) × State) :=
  match hexDecode hex with
  | none => .error .malformedHex
  | some c =>
    if lengthCheck c mode then decryptFromBytes c mode s else .error .truncatedCiphertext

/-- R211, R214: Decrypt to text. -/
def decryptText (hex : List Char) (mode : Mode) (s : State) : Except HostError ((List Char) × State) := do
  let (bytes, s) ← decrypt hex mode s
  match utf8Decode bytes with
  | some text => .ok (text, s)
  | none => .error .encodingError

/-! ### The contract as a whole (R224) -/

/-- R224: a core constructed with a key, then Encrypt on it: the ciphertext as the host gets it. -/
def encryptUnderKey (keyText : List Char) (p : List Byte) (mode : Mode) (s : State) :
    Except HostError ((List Char) × State) := do
  let s ← construct keyText s
  encrypt p mode s

/-- R224: `Decrypt(Encrypt(P, mode), mode)` on a core constructed with a key. -/
def decryptOfEncrypt (keyText : List Char) (p : List Byte) (mode : Mode) (s : State) :
    Except HostError ((List Byte) × State) := do
  let (c, s) ← encryptUnderKey keyText p mode s
  decrypt c mode s

end Sys2Proof.Machine
end

