-- ==== Sys2Proof/Safety.lean ====
section
/-! DEFINITION. The words claims about the machine use: a legal state (the invariants of
spec/10_state.md R44), a host program whose accesses the core accepts (spec/20_memory.md R63), and
which kind of step a state is about to take. -/

namespace Sys2Proof.Machine

/-- R44 item 1: with no message open the message context is at rest. -/
abbrev ClosedContext (s : State) : Prop :=
  s.mopen = false →
    s.mdir = .encrypt ∧ s.mmode = .ecb ∧ s.ivpend = false ∧ s.chain = Block.zero

/-- R44 item 2: an open message has a key. -/
abbrev OpenHasKey (s : State) : Prop := s.mopen = true → s.keyv = true

/-- R44 item 3: only an open CBC decryption waits for its IV block. -/
abbrev IvpendContext (s : State) : Prop :=
  s.ivpend = true → s.mopen = true ∧ s.mdir = .decrypt ∧ s.mmode = .cbc

/-- R44 item 4: an ECB message has no chaining value. -/
abbrev EcbChainZero (s : State) : Prop :=
  s.mopen = true → s.mmode = .ecb → s.chain = Block.zero

/-- R44 item 5: PADLEN is 0 or in 1..16. -/
abbrev PadlenRange (s : State) : Prop := s.padlen.toNat ≤ 16

/-- R44 item 6: a pad length comes with an output block and a closed message. -/
abbrev PadlenContext (s : State) : Prop := s.padlen ≠ 0 → s.outv = true ∧ s.mopen = false

/-- The state invariants of R44, items 1 to 6. Item 7, that PEND is irrelevant while BUSY = 0, is no
predicate of one state. -/
abbrev State.Inv (s : State) : Prop :=
  ClosedContext s ∧ OpenHasKey s ∧ IvpendContext s ∧ EcbChainZero s ∧ PadlenRange s ∧ PadlenContext s

/-- R63: every access the host still means to make is one the core accepts. -/
abbrev HostAccessesLegal (s : State) : Prop := ∀ op ∈ s.env.hostProg, op.wellFormed = true

/-- Two blocks agree in the low `k` bits of every byte (spec/40_round_transform.md R114). -/
abbrev SameLowBits (k : Nat) (a b : Block) : Prop :=
  ∀ (i : Nat) (_ : i < 16), a[i].setWidth k = b[i].setWidth k

/-- A core that is idle, has a key and has no message open. -/
abbrev IdleWithKey (s : State) : Prop := s.busy = false ∧ s.keyv = true ∧ s.mopen = false

/-- The state after a command that was rejected with nothing else changed (spec/60_exceptions.md
R245): only BUSY, DONE and ERR. -/
abbrev endedWith (code : ErrCode) (s : State) : State :=
  { s with busy := false, done := true, err := code }

/-- A pending word with opcode `op` that is not legal ends with ILLEGAL_COMMAND and changes nothing
else (spec/30_encoding.md R87). -/
abbrev IllegalWordsRejected (op : BitVec 4) (legal : Word → Prop) : Prop :=
  ∀ s : State, s.busy = true → opField s.pend = op → ¬ legal s.pend →
    coreStep s = .next (endedWith .illegalCommand s)

/-- The step is a host write of `v` that reaches register `r`. -/
abbrev HostWrites (r : Reg) (v : Word) (s : State) : Prop :=
  (takeTurn s).1 = .host ∧ ∃ a rest, s.env.hostProg = .wr a v :: rest ∧ regAt a = some r

/-- The step is a reset: by the reset input (spec/70_reset_and_hazards.md R270), or by a host write of
CTRL with bit 1 set (spec/10_state.md R26). -/
abbrev ResetStep (s : State) : Prop :=
  (takeTurn s).1 = .reset ∨ ∃ v, v.getLsbD 1 = true ∧ HostWrites .ctrl v s

/-- The step is the completion step of a pending command (spec/70_reset_and_hazards.md R281). -/
abbrev CompletionStep (s : State) : Prop := (takeTurn s).1 = .core ∧ s.busy = true

end Sys2Proof.Machine
end

