-- ==== Sys2Proof/Certificates/Slice0/Obligations.lean ====
section
/-! DEFINITION. The statements about the model, from the numbered rules of spec/. -/

open Sys2Proof Sys2Proof.Machine

/-! ### Encoding (spec/30_encoding.md) -/

/-- R86 to R88, R90: command words written out from the table decode to the commands they stand for. -/
def Obligations.SampleWordsDecode : Prop :=
  decode 0b00000000000000000000000000000001#32 = .ok .keyexp ∧
  decode 0b00000000000000000000000000000010#32 = .ok .encb ∧
  decode 0b00000000000000000000000000000011#32 = .ok .decb ∧
  decode 0b00000000000000000000000000000100#32 = .ok (.start .encrypt .ecb) ∧
  decode 0b00000000000000000000000000010100#32 = .ok (.start .decrypt .ecb) ∧
  decode 0b00000000000000000000000000100100#32 = .ok (.start .encrypt .cbc) ∧
  decode 0b00000000000000000000000000110100#32 = .ok (.start .decrypt .cbc) ∧
  decode 0b00000000000000000000000000000101#32 = .ok .block ∧
  decode 0b00000000000000000000101100000110#32 = .ok (.final 11) ∧
  decode 0b00000000000000000000111100000110#32 = .ok (.final 15) ∧
  decode 0b00000000000000000000000000000111#32 = .ok .abort

/-- R86, R88: decoding the word of a well-formed command gives that command back. -/
def Obligations.DecodeEncodeRoundTrip : Prop :=
  ∀ i : Instr, i.wellFormed = true → decode (encode i) = .ok i

/-- R86, R88: a word that decodes to a command is that command's one word, and the command is well
formed. -/
def Obligations.EncodeOfDecodedWord : Prop :=
  ∀ (w : Word) (i : Instr), decode w = .ok i → i.wellFormed = true ∧ encode i = w

/-- R86: a word is a legal command iff it matches a row of the table; it matches at most one; and
FINAL with NB not 0 in a decrypting message is illegal besides. -/
def Obligations.LegalWordsMatchOneRow : Prop :=
  let rows : List (Word × Word) :=
    [(0x00000001, 0xFFFFFFFF), (0x00000002, 0xFFFFFFFF), (0x00000003, 0xFFFFFFFF),
     (0x00000004, 0xFFFFFFCF), (0x00000005, 0xFFFFFFFF), (0x00000006, 0xFFFFF0FF),
     (0x00000007, 0xFFFFFFFF)]
  (∀ w : Word, (∃ i, decode w = .ok i) ↔ ∃ r ∈ rows, w &&& r.2 = r.1) ∧
  (∀ w : Word, ∀ r ∈ rows, ∀ q ∈ rows, w &&& r.2 = r.1 → w &&& q.2 = q.1 → r = q) ∧
  (∀ (s : State) (nb : Nat), s.mopen = true → s.mdir = .decrypt → nb ≠ 0 →
    exec (.final nb) s = .next (endedWith .illegalCommand s))

/-- R88: what every word decodes to. -/
def Obligations.DecodeFollowsThePatterns : Prop :=
  ∀ w : Word,
    (decode w = .ok .keyexp ↔ w = 0x00000001) ∧
    (decode w = .ok .encb ↔ w = 0x00000002) ∧
    (decode w = .ok .decb ↔ w = 0x00000003) ∧
    (∀ d m, decode w = .ok (.start d m) ↔
      w &&& 0xFFFFFFCF = 0x00000004 ∧ d.bit = w.getLsbD 4 ∧ m.bit = w.getLsbD 5) ∧
    (decode w = .ok .block ↔ w = 0x00000005) ∧
    (∀ nb, decode w = .ok (.final nb) ↔
      w &&& 0xFFFFF0FF = 0x00000006 ∧ nb = (w.extractLsb' 8 4).toNat) ∧
    (decode w = .ok .abort ↔ w = 0x00000007)

/-- R87: a reserved opcode, a reserved bit set or an unused field nonzero, and nothing else, makes a
word illegal, and an illegal command ends with ERR = 3 and no other effect. -/
def Obligations.IllegalWordsEndWithIllegalCommand : Prop :=
  (∀ w : Word, (∃ e, decode w = .error e) ↔
    (opField w = 0 ∨ 8 ≤ (opField w).toNat) ∨ w &&& 0xFFFFF0C0 ≠ 0 ∨
      (opField w ≠ 4 ∧ w &&& 0x00000030 ≠ 0) ∨ (opField w ≠ 6 ∧ w &&& 0x00000F00 ≠ 0)) ∧
  (∀ (s : State) (e : Illegal), s.busy = true → decode s.pend = .error e →
    coreStep s = .next (endedWith .illegalCommand s))

/-! ### The step (spec/70_reset_and_hazards.md) -/

/-- R281: when it is the core's turn and the pending word decodes to a command, the step is that
command's meaning at the state with the turn taken. The model's own: that with no turn scheduled the
core moves if its step is enabled (notes/assumptions/2), and that the very next step runs a command
placed by `withFetchWord` (notes/assumptions/9). -/
def Obligations.StepRunsTheDecodedCommand : Prop :=
  (∀ (s : State) (i : Instr), s.busy = true → decode s.pend = .ok i →
    (∀ ts, s.env.turns = .core :: ts → step s = exec i { s with env.turns := ts }) ∧
    (s.env.turns = [] → coreEnabled s = true → step s = exec i s)) ∧
  (∀ (s : State) (w : Word) (i : Instr), decode w = .ok i →
    step (s.withFetchWord 32 w.toNat) = exec i { s with busy := true, pend := w })

/-- R171, R281: the completion step is enabled exactly unless a CBC-encrypting START is pending and
nothing is offered, and in a legal state an enabled one ends the command. The model's own: that a
disabled one is a step that changes nothing (notes/assumptions/5). -/
def Obligations.EnabledCompletionEndsTheCommand : Prop :=
  ∀ s : State, s.Inv → s.busy = true →
    (coreEnabled s = false ↔
      decode s.pend = .ok (.start .encrypt .cbc) ∧ s.env.entropy = none) ∧
    (coreEnabled s = true → ∃ t, coreStep s = .next t ∧ t.busy = false ∧ t.done = true) ∧
    (coreEnabled s = false → coreStep s = .next s)

/-- R281, R289: a CBC-encrypting START that is offered no value stays BUSY, whether it would open a
message or be rejected; a soft reset or an offer frees the core. The model's own: that the wait is a
step that changes nothing (notes/assumptions/5). -/
def Obligations.EntropyStallUntilOfferOrReset : Prop :=
  ∀ s : State, s.busy = true → decode s.pend = .ok (.start .encrypt .cbc) → s.env.entropy = none →
    coreStep s = .next s ∧
    (writeReg .ctrl 0x00000002 s).busy = false ∧
    (∀ iv, ∃ t, coreStep (offerEntropy (some iv) s) = .next t ∧ t.busy = false ∧
      (s.mopen = false → s.keyv = true → t.err = .ok ∧ t.chain = iv) ∧
      (s.mopen = true → t.err = .sequence) ∧
      (s.mopen = false → s.keyv = false → t.err = .noKey))

/-! ### The round transform (spec/40_round_transform.md) -/

/-- R101, R102, R107: Substitute, which has no fixed point, and InverseSubstitute on every byte, and
round-key injection, which is its own inverse. -/
def Obligations.SubstituteAndKeyInjection : Prop :=
  (∀ (b : Block) (i : Nat) (h : i < 16),
    (sub b)[i].toNat = (3 * b[i].toNat + 7) % 256 ∧ (sub b)[i] ≠ b[i] ∧
    (invSub b)[i].toNat = (b[i].toNat + 256 - 7) % 256 * 171 % 256) ∧
  (∀ b k : Block,
    (∀ (i : Nat) (h : i < 16), (addRK b k)[i] = b[i] ^^^ k[i]) ∧ addRK (addRK b k) k = b)

/-- R103, R104: row `r` is rotated left by `r` by Permute and right by `r` by InversePermute. -/
def Obligations.PermuteRotatesRows : Prop :=
  ∀ (b : Block) (r c : Nat) (hr : r < 4) (hc : c < 4),
    (perm b)[4 * r + c] = b[4 * r + (c + r) % 4] ∧
    (invPerm b)[4 * r + c] = b[4 * r + (c + (4 - r)) % 4]

/-- R105, R106: the closed form of Mix, and InverseMix, which takes the mixed byte 0 from byte 15 and
then restores each byte from the restored byte above it. -/
def Obligations.MixAndInverseMixFormulas : Prop :=
  ∀ b : Block,
    (∀ (i : Nat) (h : i < 15), (mix b)[i] = b[i] + b[i + 1]) ∧
    (mix b)[15] = b[15] + b[0] + b[1] ∧
    (invMix b)[15] = b[15] - b[0] ∧
    (∀ (i : Nat) (h : i < 15), (invMix b)[i] = b[i] - (invMix b)[i + 1])

/-- R108, R109: EncBlock is the whitening and then ten like rounds; DecBlock undoes the rounds from 10
down to 1, then the whitening. -/
def Obligations.BlockCipherRounds : Prop :=
  (∀ (rk : RoundKeys) (p : Block), ∃ s : Nat → Block,
    s 0 = addRK p rk[0] ∧
    (∀ (r : Nat) (h : r < 10), s (r + 1) = addRK (mix (perm (sub (s r)))) rk[r + 1]) ∧
    encBlock rk p = s 10) ∧
  (∀ (rk : RoundKeys) (c : Block), ∃ s : Nat → Block,
    s 10 = c ∧
    (∀ (r : Nat) (h : r < 10), s r = invSub (invPerm (invMix (addRK (s (r + 1)) rk[r + 1])))) ∧
    decBlock rk c = addRK (s 0) rk[0])

/-- R110: every layer and the block cipher are inverted by their inverses, in both orders, under any
round-key file. -/
def Obligations.InverseLaws : Prop :=
  (∀ b : Block, invSub (sub b) = b ∧ sub (invSub b) = b) ∧
  (∀ b : Block, invPerm (perm b) = b ∧ perm (invPerm b) = b) ∧
  (∀ b : Block, invMix (mix b) = b ∧ mix (invMix b) = b) ∧
  (∀ b k : Block, addRK (addRK b k) k = b) ∧
  (∀ (rk : RoundKeys) (b : Block),
    decBlock rk (encBlock rk b) = b ∧ encBlock rk (decBlock rk b) = b)

/-- R113: Permute moves bytes only within a row; Mix makes byte `i` depend on bytes `i` and `i+1`
only, and byte 15 on bytes 15, 0 and 1. -/
def Obligations.DiffusionOfPermuteAndMix : Prop :=
  ∀ a b : Block,
    (∀ r, r < 4 → (∀ (i : Nat) (h : i < 16), i / 4 = r → a[i] = b[i]) →
      ∀ (i : Nat) (h : i < 16), i / 4 = r → (perm a)[i] = (perm b)[i]) ∧
    (∀ (i : Nat) (h : i < 15), a[i] = b[i] → a[i + 1] = b[i + 1] → (mix a)[i] = (mix b)[i]) ∧
    (a[15] = b[15] → a[0] = b[0] → a[1] = b[1] → (mix a)[15] = (mix b)[15])

/-- R114: the low `k` bits of every output byte of each layer and of the block cipher depend only on
the low `k` bits of the input bytes and of the key bytes. -/
def Obligations.LowBitsDependOnLowBits : Prop :=
  ∀ k, k ≤ 8 →
    (∀ a b : Block, SameLowBits k a b →
      SameLowBits k (sub a) (sub b) ∧ SameLowBits k (invSub a) (invSub b) ∧
      SameLowBits k (perm a) (perm b) ∧ SameLowBits k (invPerm a) (invPerm b) ∧
      SameLowBits k (mix a) (mix b) ∧ SameLowBits k (invMix a) (invMix b) ∧
      ∀ c d : Block, SameLowBits k c d → SameLowBits k (addRK a c) (addRK b d)) ∧
    ∀ (rk rk' : RoundKeys) (a b : Block),
      (∀ (r : Nat) (h : r < 11), SameLowBits k rk[r] rk'[r]) → SameLowBits k a b →
        SameLowBits k (encBlock rk a) (encBlock rk' b) ∧
        SameLowBits k (decBlock rk a) (decBlock rk' b)

/-- R111: ENCB. Every other piece of state is as before. -/
def Obligations.EncbEncryptsOneBlock : Prop :=
  (∀ s : State, s.keyv = true →
    exec .encb s = .next { s with dout := encBlock s.rk s.din, outv := true, padlen := 0,
                                  busy := false, done := true, err := .ok }) ∧
  (∀ s : State, s.keyv = false → exec .encb s = .next (endedWith .noKey s)) ∧
  IllegalWordsRejected 0x2 (· = 0x00000002)

/-- R112: DECB. Every other piece of state is as before. -/
def Obligations.DecbDecryptsOneBlock : Prop :=
  (∀ s : State, s.keyv = true →
    exec .decb s = .next { s with dout := decBlock s.rk s.din, outv := true, padlen := 0,
                                  busy := false, done := true, err := .ok }) ∧
  (∀ s : State, s.keyv = false → exec .decb s = .next (endedWith .noKey s)) ∧
  IllegalWordsRejected 0x3 (· = 0x00000003)

/-! ### The key schedule (spec/41_key_schedule.md) -/

/-- R142: KeyExpand: `k[0]` is the master key, and `k[i+1]` the first 16 bytes of the digest of
`k[i]` and then the byte `i`. -/
def Obligations.KeyExpandFollowsTheDigest : Prop :=
  ∀ mk : Block, (keyExpand mk)[0] = mk ∧
    ∀ (i : Nat) (h : i < 10), ∃ m : Vector Byte 17,
      (∀ (j : Nat) (hj : j < 16), m[j] = (keyExpand mk)[i][j]) ∧ m[16] = BitVec.ofNat 8 i ∧
      ∀ (j : Nat) (hj : j < 16), (keyExpand mk)[i + 1][j] = (Config.d256 m)[j]

/-- R143: KEYEXP. Every other piece of state is as before. -/
def Obligations.KeyexpExpandsTheMasterKey : Prop :=
  (∀ s : State, s.mopen = false →
    exec .keyexp s = .next { s with rk := keyExpand s.mk, keyv := true, outv := false, padlen := 0,
                                    busy := false, done := true, err := .ok }) ∧
  (∀ s : State, s.mopen = true → exec .keyexp s = .next (endedWith .sequence s)) ∧
  IllegalWordsRejected 0x1 (· = 0x00000001)

/-- R32, R41, R145: RK changes only by a KEYEXP completion with no message open, which writes the
expansion of MK, or by a reset; only a successful KEYEXP sets KEYV and only a reset clears it. -/
def Obligations.RoundKeyAndKeyvWriters : Prop :=
  ∀ s t : State, step s = .next t →
    (t.rk ≠ s.rk → ResetStep s ∨
      (CompletionStep s ∧ decode s.pend = .ok .keyexp ∧ s.mopen = false ∧ t.rk = keyExpand s.mk)) ∧
    (s.keyv = false → t.keyv = true →
      CompletionStep s ∧ decode s.pend = .ok .keyexp ∧ t.err = .ok ∧ t.rk = keyExpand s.mk) ∧
    (s.keyv = true → t.keyv = false → ResetStep s)

/-! ### Padding and messages (spec/42_modes_padding.md) -/

/-- R160, R161: the padded length is a positive multiple of 16, and Unpad undoes Pad for every byte
string, the empty one included. -/
def Obligations.UnpadInvertsPad : Prop :=
  ∀ data : List Byte,
    (pad data).length % 16 = 0 ∧ 0 < (pad data).length ∧ (pad data).length ≤ data.length + 16 ∧
    unpad (pad data) = some data

/-- R162: PadCheck, and its agreement with Unpad on a byte string whose last block is `q`. -/
def Obligations.PadCheckIsUnpadOfTheLastBlock : Prop :=
  (∀ (p : Block) (n : Nat), padCheck p = some n ↔
    n = p[15].toNat ∧ 1 ≤ n ∧ n ≤ 16 ∧ ∀ (j : Nat) (h : j < 16), 16 - n ≤ j → p[j] = p[15]) ∧
  (∀ (bs : List Block) (q : Block),
    unpad (fromBlocks (bs ++ [q])) =
      (padCheck q).map fun n => (fromBlocks (bs ++ [q])).take (16 * (bs.length + 1) - n))

/-- R170: START in its four forms, and its errors. A CBC encryption needs an offer to complete at all
(R171, R281). Every other piece of state is as before, but for what the entropy source offers after a
CBC-encrypting START, of which `OnlyCbcStartDraws` speaks. -/
def Obligations.StartOpensTheMessage : Prop :=
  (∀ s : State, s.mopen = true →
    (∀ d m, ¬ (d = .encrypt ∧ m = .cbc) → exec (.start d m) s = .next (endedWith .sequence s)) ∧
    (∀ iv, s.env.entropy = some iv →
      ∃ o, exec (.start .encrypt .cbc) s =
        .next { endedWith .sequence s with env.entropy := o })) ∧
  (∀ s : State, s.mopen = false → s.keyv = false →
    (∀ d m, ¬ (d = .encrypt ∧ m = .cbc) → exec (.start d m) s = .next (endedWith .noKey s)) ∧
    (∀ iv, s.env.entropy = some iv →
      ∃ o, exec (.start .encrypt .cbc) s =
        .next { endedWith .noKey s with env.entropy := o })) ∧
  (∀ s : State, s.mopen = false → s.keyv = true →
    (∀ d, exec (.start d .ecb) s =
      .next { s with mopen := true, mdir := d, mmode := .ecb, padlen := 0, chain := Block.zero,
                     ivpend := false, outv := false, busy := false, done := true, err := .ok }) ∧
    exec (.start .decrypt .cbc) s =
      .next { s with mopen := true, mdir := .decrypt, mmode := .cbc, padlen := 0,
                     chain := Block.zero, ivpend := true, outv := false, busy := false,
                     done := true, err := .ok } ∧
    (∀ iv, s.env.entropy = some iv → ∃ o, exec (.start .encrypt .cbc) s =
      .next { s with mopen := true, mdir := .encrypt, mmode := .cbc, padlen := 0, chain := iv,
                     dout := iv, outv := true, ivpend := false, busy := false, done := true,
                     err := .ok, env.entropy := o })) ∧
  IllegalWordsRejected 0x4 (· &&& 0xFFFFFFCF = 0x00000004)

/-- R171: no command but a CBC-encrypting START draws, and none of the others depends on what the
entropy source offers. The model's own: that such a START takes the offer where it succeeds
(notes/assumptions/3), leaves it where it is rejected (notes/assumptions/4), and changes nothing while
nothing is offered (notes/assumptions/5). -/
def Obligations.OnlyCbcStartDraws : Prop :=
  (∀ (i : Instr) (s t : State) (o : Option Block), i ≠ .start .encrypt .cbc → exec i s = .next t →
    t.env = s.env ∧ exec i (offerEntropy o s) = .next (offerEntropy o t)) ∧
  (∀ (s : State) (iv : Block), s.env.entropy = some iv →
    ∃ t, exec (.start .encrypt .cbc) s = .next t ∧
      (t.err = .ok → t.env = { s.env with entropy := none }) ∧
      (t.err ≠ .ok → t.err.rejected = true ∧ t.env = s.env) ∧
      (t.err = .ok ↔ s.mopen = false ∧ s.keyv = true)) ∧
  (∀ s : State, s.env.entropy = none → exec (.start .encrypt .cbc) s = .next s)

/-- R172: BLOCK in its five contexts, and its errors. Every other piece of state is as before. -/
def Obligations.BlockProcessesOneBlock : Prop :=
  (∀ s : State, s.mopen = false → exec .block s = .next (endedWith .sequence s)) ∧
  (∀ s : State, s.mopen = true →
    (s.mdir = .encrypt → s.mmode = .ecb → s.ivpend = false → exec .block s =
      .next { s with dout := encBlock s.rk s.din, outv := true, padlen := 0, busy := false,
                     done := true, err := .ok }) ∧
    (s.mdir = .encrypt → s.mmode = .cbc → s.ivpend = false → exec .block s =
      .next { s with dout := encBlock s.rk (xorBlock s.din s.chain),
                     chain := encBlock s.rk (xorBlock s.din s.chain), outv := true, padlen := 0,
                     busy := false, done := true, err := .ok }) ∧
    (s.mdir = .decrypt → s.mmode = .ecb → s.ivpend = false → exec .block s =
      .next { s with dout := decBlock s.rk s.din, outv := true, padlen := 0, busy := false,
                     done := true, err := .ok }) ∧
    (s.mdir = .decrypt → s.mmode = .cbc → s.ivpend = true → exec .block s =
      .next { s with chain := s.din, ivpend := false, outv := false, padlen := 0, busy := false,
                     done := true, err := .ok }) ∧
    (s.mdir = .decrypt → s.mmode = .cbc → s.ivpend = false → exec .block s =
      .next { s with dout := xorBlock (decBlock s.rk s.din) s.chain, chain := s.din, outv := true,
                     padlen := 0, busy := false, done := true, err := .ok })) ∧
  IllegalWordsRejected 0x5 (· = 0x00000005)

/-- R172 ("Only these five combinations are reachable"): no command faults but BLOCK, and BLOCK faults
exactly in the message contexts R172 has no case for. The fault is the model's choice
(notes/assumptions/6). -/
def Obligations.OnlyBlockOutOfContextFaults : Prop :=
  ∀ (i : Instr) (s : State) (f : Fault), exec i s = .fault f ↔
    f = .blockContext ∧ i = .block ∧ s.mopen = true ∧ s.ivpend = true ∧
      (s.mdir = .encrypt ∨ s.mmode = .ecb)

/-- R174: the block an encrypting FINAL encrypts is the first `nb` bytes of DIN and then `16 - nb`
bytes of value `16 - nb`; the message is closed. Every other piece of state is as before. -/
def Obligations.FinalEncryptPadsAndCloses : Prop :=
  ∀ (s : State) (nb : Nat) (_ : nb < 16), s.mopen = true → s.mdir = .encrypt →
    ∃ blk : Block,
      (∀ (i : Nat) (h : i < 16), i < nb → blk[i] = s.din[i]) ∧
      (∀ (i : Nat) (h : i < 16), nb ≤ i → blk[i].toNat = 16 - nb) ∧
      exec (.final nb) s =
        .next { s with
          dout := encBlock s.rk (if s.mmode = .cbc then xorBlock blk s.chain else blk),
          outv := true, padlen := 0, mopen := false, mdir := .encrypt, mmode := .ecb,
          ivpend := false, chain := Block.zero, busy := false, done := true, err := .ok }

/-- R175: a decrypting FINAL: truncated, good padding, bad padding. The message is closed in every
outcome. Every other piece of state is as before. -/
def Obligations.FinalDecryptChecksPadding : Prop :=
  ∀ s : State, s.mopen = true → s.mdir = .decrypt →
    let q := if s.mmode = .cbc then xorBlock (decBlock s.rk s.din) s.chain
      else decBlock s.rk s.din
    let closed : State := { s with mopen := false, mdir := .encrypt, mmode := .ecb, ivpend := false,
                                   chain := Block.zero, busy := false, done := true }
    (s.ivpend = true → exec (.final 0) s =
      .next { closed with dout := Block.zero, outv := false, padlen := 0,
                          err := .truncatedCiphertext }) ∧
    (s.ivpend = false → ∀ n, padCheck q = some n → exec (.final 0) s =
      .next { closed with dout := q, outv := true, padlen := BitVec.ofNat 5 n, err := .ok }) ∧
    (s.ivpend = false → padCheck q = none → exec (.final 0) s =
      .next { closed with dout := Block.zero, outv := false, padlen := 0,
                          err := .invalidPadding })

/-- R173, R243: the errors FINAL raises before any write, and its illegal words. -/
def Obligations.FinalRejections : Prop :=
  (∀ (s : State) (nb : Nat), s.mopen = false →
    exec (.final nb) s = .next (endedWith .sequence s)) ∧
  (∀ (s : State) (nb : Nat), s.mopen = true → s.mdir = .decrypt → nb ≠ 0 →
    exec (.final nb) s = .next (endedWith .illegalCommand s)) ∧
  IllegalWordsRejected 0x6 (· &&& 0xFFFFF0FF = 0x00000006)

/-- R176: ABORT, with or without a message open. Every other piece of state is as before. -/
def Obligations.AbortClosesWithoutOutput : Prop :=
  (∀ s : State, exec .abort s =
    .next { s with mopen := false, mdir := .encrypt, mmode := .ecb, ivpend := false,
                   chain := Block.zero, dout := Block.zero, outv := false, padlen := 0,
                   busy := false, done := true, err := .ok }) ∧
  IllegalWordsRejected 0x7 (· = 0x00000007)

/-- R179, and the same for ECB: at message level decryption gives the plaintext back, under any round
keys and every IV. -/
def Obligations.MessageRoundTrips : Prop :=
  ∀ (rk : RoundKeys) (iv : Block) (p : List Byte),
    decEcb rk (encEcb rk p) = some p ∧ decCbc rk (encCbc rk iv p) = some p

/-! ### Errors and flags (spec/60_exceptions.md, spec/10_state.md) -/

/-- R245: a command that ends rejected (ERR 3, 4 or 5) changes only BUSY, DONE and ERR. The model's own:
that what the entropy source offers stands too (notes/assumptions/4). -/
def Obligations.RejectedCommandChangesOnlyResult : Prop :=
  ∀ s t : State, s.busy = true → coreStep s = .next t → t.busy = false → t.err.rejected = true →
    t = endedWith t.err s

/-- R242: the errors each command can raise. In a legal state TRUNCATED_CIPHERTEXT comes of a CBC
decryption only. -/
def Obligations.ErrorsEachCommandCanRaise : Prop :=
  ∀ (i : Instr) (s t : State), s.busy = true → exec i s = .next t → t.busy = false →
    (s.Inv → t.err = .truncatedCiphertext → s.mdir = .decrypt ∧ s.mmode = .cbc) ∧
    match i with
    | .keyexp => t.err = .ok ∨ t.err = .sequence
    | .encb => t.err = .ok ∨ t.err = .noKey
    | .decb => t.err = .ok ∨ t.err = .noKey
    | .start _ _ => t.err = .ok ∨ t.err = .sequence ∨ t.err = .noKey
    | .block => t.err = .ok ∨ t.err = .sequence
    | .final nb => t.err = .ok ∨ t.err = .sequence ∨
        (s.mdir = .decrypt ∧
          ((nb ≠ 0 ∧ t.err = .illegalCommand) ∨ t.err = .invalidPadding ∨
            (s.ivpend = true ∧ t.err = .truncatedCiphertext)))
    | .abort => t.err = .ok

/-- R246: after ERR 1 or 2 no message is open and the context is cleared; a rejected command leaves an
open message open. -/
def Obligations.DataErrorsCloseTheMessage : Prop :=
  ∀ s t : State, s.busy = true → coreStep s = .next t → t.busy = false →
    ((t.err = .invalidPadding ∨ t.err = .truncatedCiphertext) →
      t.mopen = false ∧ t.mdir = .encrypt ∧ t.mmode = .ecb ∧ t.ivpend = false ∧
        t.chain = Block.zero) ∧
    (t.err.rejected = true → t.mopen = s.mopen ∧ t.mdir = s.mdir ∧ t.mmode = s.mmode ∧
      t.ivpend = s.ivpend ∧ t.chain = s.chain)

/-- R34: which ended commands leave OUTV 1, 0 or as it was. -/
def Obligations.OutvFollowsTheCommand : Prop :=
  ∀ (i : Instr) (s t : State), s.busy = true → exec i s = .next t → t.busy = false →
    (t.err.rejected = true → t.outv = s.outv) ∧
    (t.err.rejected = false →
      t.outv = match i with
        | .keyexp => false
        | .encb => true
        | .decb => true
        | .start d m => d == .encrypt && m == .cbc
        | .block => !s.ivpend
        | .final _ => t.err == .ok
        | .abort => false)

/-- R35: PADLEN is the pad length of a decrypting FINAL that succeeds, 0 after every other command
that is not rejected, and unchanged by a rejected one. -/
def Obligations.PadlenFollowsTheCommand : Prop :=
  ∀ (i : Instr) (s t : State), s.busy = true → exec i s = .next t → t.busy = false →
    (t.err.rejected = true → t.padlen = s.padlen) ∧
    (t.err.rejected = false →
      if i = .final 0 ∧ s.mdir = .decrypt ∧ t.err = .ok then
        1 ≤ t.padlen.toNat ∧ t.padlen.toNat ≤ 16 ∧ padCheck t.dout = some t.padlen.toNat
      else t.padlen = 0)

/-- R28 to R30: who sets and who clears BUSY, DONE and OVR. -/
def Obligations.StatusFlagWriters : Prop :=
  ∀ s t : State, step s = .next t →
    (s.busy = false → t.busy = true → ∃ v, HostWrites .cmd v s ∧ t.pend = v) ∧
    (s.busy = true → t.busy = false → (CompletionStep s ∧ t.done = true) ∨ ResetStep s) ∧
    (s.done = false → t.done = true → CompletionStep s ∧ t.busy = false) ∧
    (s.done = true → t.done = false →
      (∃ v, v.getLsbD 1 = true ∧ HostWrites .status v s) ∨ ResetStep s) ∧
    (s.ovr = false → t.ovr = true → s.busy = true ∧
      ∃ r v, HostWrites r v s ∧ (r = .cmd ∨ (∃ k, r = .mk k) ∨ ∃ k, r = .din k)) ∧
    (s.ovr = true → t.ovr = false →
      (∃ v, v.getLsbD 2 = true ∧ HostWrites .status v s) ∨ ResetStep s)

/-- R25, R31, R33 to R35, R38 to R40, R42: only host writes while BUSY = 0 and resets change MK and DIN;
only CTRL writes and resets change IE; only command completions and resets change DOUT, ERR, OUTV,
PADLEN, the message bits and CHAIN. -/
def Obligations.BlockRegisterWriters : Prop :=
  ∀ s t : State, step s = .next t →
    (t.mk ≠ s.mk → (s.busy = false ∧ ∃ k v, HostWrites (.mk k) v s) ∨ ResetStep s) ∧
    (t.din ≠ s.din → (s.busy = false ∧ ∃ k v, HostWrites (.din k) v s) ∨ ResetStep s) ∧
    (t.ie ≠ s.ie → (∃ v, HostWrites .ctrl v s ∧ t.ie = v.getLsbD 0) ∨ ResetStep s) ∧
    ((t.dout ≠ s.dout ∨ t.err ≠ s.err ∨ t.outv ≠ s.outv ∨ t.padlen ≠ s.padlen ∨
        t.mopen ≠ s.mopen ∨ t.mdir ≠ s.mdir ∨ t.mmode ≠ s.mmode ∨ t.ivpend ≠ s.ivpend ∨
        t.chain ≠ s.chain) →
      (CompletionStep s ∧ t.busy = false) ∨ ResetStep s)

/-- R247, R248: the interrupt line, and how a completion, a STATUS write and a soft reset move it. -/
def Obligations.InterruptLine : Prop :=
  (∀ s : State, irq s = (s.ie && s.done)) ∧
  (∀ s t : State, s.busy = true → coreStep s = .next t → t.busy = false → irq t = s.ie) ∧
  (∀ (s : State) (v : Word), v.getLsbD 1 = true →
    irq (writeReg .status v s) = false ∧ irq (writeReg .ctrl v s) = false) ∧
  (∀ s : State, irq (resetCore s) = false)

/-! ### The register window (spec/20_memory.md, spec/10_state.md) -/

/-- R61, R63: the accepted accesses are the aligned 32-bit ones, and every one of them reaches the
register of its offset. -/
def Obligations.WindowAddressMap : Prop :=
  (∀ a : Access, (regAt a).isSome = true ↔ a.width = .word ∧ a.off.toNat % 4 = 0) ∧
  regAt ⟨.word, 0x00⟩ = some .param ∧ regAt ⟨.word, 0x04⟩ = some .ctrl ∧
  regAt ⟨.word, 0x08⟩ = some .status ∧ regAt ⟨.word, 0x0C⟩ = some .cmd ∧
  ∀ k : Fin 4,
    regAt ⟨.word, BitVec.ofNat 6 (0x10 + 4 * k.val)⟩ = some (.mk k) ∧
    regAt ⟨.word, BitVec.ofNat 6 (0x20 + 4 * k.val)⟩ = some (.din k) ∧
    regAt ⟨.word, BitVec.ofNat 6 (0x30 + 4 * k.val)⟩ = some (.dout k)

/-- R63: a narrow or misaligned host access has no step, and nothing else is ever refused. -/
def Obligations.OnlyBadAccessesAreRefused : Prop :=
  ∀ (s : State) (r : Refusal), step s = .refused r ↔
    r = .busAccess ∧ (takeTurn s).1 = .host ∧
      ∃ op rest, s.env.hostProg = op :: rest ∧ op.wellFormed = false

/-- R39, R62, R66: word `k` of DIN and of DOUT reads byte `4k + j` in bits `[8j+7:8j]`; a block is what
its four words say; and while BUSY = 0 a DIN word reads what was written last, and a DIN or MK write changes
its four bytes and nothing else. -/
def Obligations.BlockPackingAndWordWrites : Prop :=
  (∀ (s : State) (k : Fin 4) (j : Nat) (h : j < 4),
    (readReg (.din k) s).extractLsb' (8 * j) 8 = s.din[4 * k.val + j] ∧
    (readReg (.dout k) s).extractLsb' (8 * j) 8 = s.dout[4 * k.val + j]) ∧
  (∀ b : Block,
    packWords (wordOfBlock b 0) (wordOfBlock b 1) (wordOfBlock b 2) (wordOfBlock b 3) = b) ∧
  (∀ (s : State) (k : Fin 4) (v : Word), s.busy = false →
    readReg (.din k) (writeReg (.din k) v s) = v ∧
    (∀ l, l ≠ k → readReg (.din l) (writeReg (.din k) v s) = readReg (.din l) s) ∧
    (∃ d : Block, writeReg (.din k) v s = { s with din := d }) ∧
    ∃ m : Block, writeReg (.mk k) v s = { s with mk := m } ∧
      ∀ (i : Nat) (h : i < 16),
        m[i] = if i / 4 = k.val then v.extractLsb' (8 * (i % 4)) 8 else s.mk[i])

/-- R64, R66, R67, R280: a host write of CMD starts a command, or is dropped while BUSY = 1 like one of
MK or DIN, with OVR set; writes to PARAM and DOUT are ignored; STATUS and CTRL writes have their
effect whether BUSY is 1 or 0. R70, R91: the host's `WR` operation is that write. R270: the reset input
resets the core. The model's own: a reset leaves what stands outside the core, an offer of the entropy
source included (notes/assumptions/3 and 10), and PEND is then 0 (notes/assumptions/12). -/
def Obligations.RegisterWriteEffects : Prop :=
  (∀ (s : State) (v : Word) (k : Fin 4),
    (s.busy = false → writeReg .cmd v s = { s with pend := v, busy := true }) ∧
    (s.busy = true → writeReg .cmd v s = { s with ovr := true } ∧
      writeReg (.mk k) v s = { s with ovr := true } ∧
      writeReg (.din k) v s = { s with ovr := true }) ∧
    writeReg .param v s = s ∧ writeReg (.dout k) v s = s ∧
    writeReg .status v s =
      { s with done := s.done && !v.getLsbD 1, ovr := s.ovr && !v.getLsbD 2 } ∧
    (v.getLsbD 1 = false → writeReg .ctrl v s = { s with ie := v.getLsbD 0 }) ∧
    (v.getLsbD 1 = true → writeReg .ctrl v s = { State.reset with env := s.env })) ∧
  (∀ (s : State) (a : Access) (v : Word) (rest : List HostOp) (r : Reg),
    s.env.hostProg = .wr a v :: rest → regAt a = some r →
    hostStep s = .next (writeReg r v { s with env.hostProg := rest }) ∧
    ((takeTurn s).1 = .host →
      step s = .next (writeReg r v { (takeTurn s).2 with env.hostProg := rest }))) ∧
  (∀ (s : State) (ts : List Turn), s.env.turns = .reset :: ts →
    step s = .next { State.reset with env := { s.env with turns := ts } })

/-- R67, R68, R281: a host operation that is no reset leaves a pending command and all it reads as
they are. -/
def Obligations.HostKeepsPendingCommandInputs : Prop :=
  ∀ s t : State, s.busy = true → hostStep s = .next t → t.busy = true →
    t = { s with ie := t.ie, done := t.done, ovr := t.ovr, env := t.env } ∧
      t.env.entropy = s.env.entropy

/-- R281: the result of a pending command does not depend on CTRL.IE, DONE or OVR. -/
def Obligations.ResultIndependentOfHostBits : Prop :=
  ∀ (s t : State) (a b c : Bool), s.busy = true → coreStep s = .next t → t.busy = false →
    coreStep { s with ie := a, done := b, ovr := c } = .next { t with ie := a, ovr := c }

/-- R65, R91: no read changes the core, and the host gets the register's value. The model's own: the
host keeps the value with its offset (notes/assumptions/10). -/
def Obligations.ReadsHaveNoSideEffect : Prop :=
  ∀ (s t : State) (a : Access) (rest : List HostOp), s.env.hostProg = .rd a :: rest →
    hostStep s = .next t →
    ∃ r, regAt a = some r ∧
      t = { s with env.hostProg := rest,
                   env.hostReads := s.env.hostReads ++ [(a.off, readReg r s)] } ∧
      ∀ q, readReg q t = readReg q s

/-- R22 to R24, R27, R64, R241: PARAM reads 0x000B0A10, CMD and MK read 0, DIN and DOUT read their words,
and every bit of CTRL and STATUS as they read, in every state. -/
def Obligations.RegisterReads : Prop :=
  ∀ s : State,
    readReg .param s = 0x000B0A10 ∧ readReg .cmd s = 0 ∧ (∀ k, readReg (.mk k) s = 0) ∧
    (∀ k, readReg (.din k) s = wordOfBlock s.din k ∧ readReg (.dout k) s = wordOfBlock s.dout k) ∧
    (readReg .ctrl s).toNat = s.ie.toNat ∧
    (let w := readReg .status s
     w.getLsbD 0 = s.busy ∧ w.getLsbD 1 = s.done ∧ w.getLsbD 2 = s.ovr ∧ w.getLsbD 3 = false ∧
     (w.extractLsb' 4 4).toNat = (match s.err with
       | .ok => 0
       | .invalidPadding => 1
       | .truncatedCiphertext => 2
       | .illegalCommand => 3
       | .noKey => 4
       | .sequence => 5) ∧ w.getLsbD 8 = s.keyv ∧ w.getLsbD 9 = s.mopen ∧
     w.getLsbD 10 = s.mdir.bit ∧ w.getLsbD 11 = s.mmode.bit ∧ w.getLsbD 12 = s.ivpend ∧
     w.getLsbD 13 = s.outv ∧ w.getLsbD 14 = false ∧ w.getLsbD 15 = false ∧
     w.extractLsb' 16 5 = s.padlen ∧ ∀ n, 21 ≤ n → w.getLsbD n = false)

/-- R38, R41: two cores that differ only in MK, RK, CHAIN and PEND read alike at every register. -/
def Obligations.KeyMaterialCannotBeRead : Prop :=
  ∀ (s : State) (mk chain : Block) (rk : RoundKeys) (pend : Word) (r : Reg),
    readReg r { s with mk := mk, chain := chain, rk := rk, pend := pend } = readReg r s

/-- R45, R270, R271: the state after reset; and the reset input, at any time, leaves every piece of the
core's state at its reset value (nothing is said of PEND, which has none, or of what stands outside the
core). -/
def Obligations.ResetValues : Prop :=
  (∀ s : State, (takeTurn s).1 = .reset →
    ∃ e p, step s = .next { State.reset with env := e, pend := p }) ∧
  let s := State.reset
  readReg .param s = 0x000B0A10 ∧ readReg .ctrl s = 0 ∧ readReg .status s = 0 ∧ irq s = false ∧
  (∀ k, readReg (.din k) s = 0 ∧ readReg (.dout k) s = 0) ∧
  (∀ (i : Nat) (h : i < 16), s.mk[i] = 0 ∧ s.din[i] = 0 ∧ s.dout[i] = 0 ∧ s.chain[i] = 0) ∧
  (∀ (r : Nat) (hr : r < 11) (i : Nat) (h : i < 16), s.rk[r][i] = 0) ∧
  s.ie = false ∧ s.busy = false ∧ s.done = false ∧ s.ovr = false ∧ s.err = .ok ∧ s.keyv = false ∧
  s.mopen = false ∧ s.mdir = .encrypt ∧ s.mmode = .ecb ∧ s.ivpend = false ∧ s.outv = false ∧
  s.padlen = 0

/-! ### Whole-machine statements -/

/-- R44: the invariants hold after reset. -/
def Obligations.InvariantsHoldAtReset : Prop := State.reset.Inv

/-- R44: every step keeps the invariants. -/
def Obligations.StepKeepsTheInvariants : Prop :=
  ∀ s t : State, s.Inv → step s = .next t → t.Inv

/-- R44 item 7: while BUSY = 0 the word in PEND is irrelevant: with another word there the step
leaves the same state but for PEND, and the same PEND where it starts a command. The model's own: that
an idle core's turn is a step that changes nothing (notes/assumptions/11). -/
def Obligations.PendIrrelevantWhileIdle : Prop :=
  ∀ (s t : State) (p : Word), s.busy = false → step s = .next t →
    ∃ q, step { s with pend := p } = .next { t with pend := q } ∧ (t.busy = true → q = t.pend)

/-- R44, R63, R172: from a legal state with a host program of legal accesses a step always goes on,
and both stay so. The model's own: that the core's turn while it is idle and while a START waits for its
IV, where the spec has no step, is a step that changes nothing (notes/assumptions/11 and 5). -/
def Obligations.LegalStateNeverStops : Prop :=
  ∀ s : State, s.Inv → HostAccessesLegal s →
    ∃ t, step s = .next t ∧ t.Inv ∧ HostAccessesLegal t

/-! ### The host contract (spec/45_host_contract.md) -/

/-- R211, R215, R216: HexDecode inverts HexEncode, which gives two characters for each byte, and UTF-8
decoding (the standard one, notes/assumptions/13) inverts encoding for every text. -/
def Obligations.EncodersRoundTrip : Prop :=
  (∀ l : List Byte, hexDecode (hexEncode l) = some l ∧ (hexEncode l).length = 2 * l.length) ∧
  (∀ text : List Char, utf8Decode (utf8 text) = some text)

/-- R212: after Construct on a core that is not busy, KEYV = 1, no message is open and RK is the
expansion of the normalized key. The model's own: each command runs at once to its end
(notes/assumptions/14), and the key text is a list of characters in UTF-8 (notes/assumptions/13). -/
def Obligations.ConstructInstallsTheKey : Prop :=
  ∀ (s : State) (keyText : List Char), s.busy = false →
    ∃ t, construct keyText s = .ok t ∧ IdleWithKey t ∧
      t.rk = keyExpand (Config.d128 (utf8 keyText)) ∧ t.ovr = s.ovr

/-- R168 for encryption: the blocks Encrypt reads are exactly those of the message level, the IV being
the value drawn. The model's own: each command runs at once to its end (notes/assumptions/14). -/
def Obligations.EncryptReadsTheMessageLevelBlocks : Prop :=
  ∀ (s : State) (p : List Byte), IdleWithKey s →
    (∃ t, encryptToBlocks p .ecb s = .ok (encEcb s.rk p, t) ∧ IdleWithKey t ∧ t.rk = s.rk) ∧
    (∀ iv, s.env.entropy = some iv →
      ∃ t, encryptToBlocks p .cbc s = .ok (encCbc s.rk iv p, t) ∧ IdleWithKey t ∧ t.rk = s.rk)

/-- R168, R214 for decryption: Decrypt gives the message-level plaintext, and InvalidPadding where Unpad
fails. The model's own: each command runs at once to its end (notes/assumptions/14). -/
def Obligations.DecryptAgreesWithTheMessageLevel : Prop :=
  ∀ (s : State) (c : List Byte) (mode : Mode), IdleWithKey s → lengthCheck c mode = true →
    let blocks := toBlocks (c.length / 16) c
    let result := match mode with
      | .ecb => decEcb s.rk blocks
      | .cbc => decCbc s.rk blocks
    (∀ p, result = some p → ∃ t, decryptFromBytes c mode s = .ok (p, t) ∧ IdleWithKey t) ∧
    (result = none → decryptFromBytes c mode s = .error .invalidPadding)

/-- R224: for every key text, plaintext and IV draw, Construct, Encrypt and Decrypt run on the core
give the plaintext back, in both modes. ECB needs no draw, and its ciphertext is the same on every two
cores that are not busy; the empty plaintext gives 32 hexadecimal characters in ECB and decrypts to the
empty one. The model's own: each command runs at once to its end (notes/assumptions/14), the key text is
read as UTF-8 (notes/assumptions/13), and the offer made before Construct still stands at Encrypt's START
(notes/assumptions/3). -/
def Obligations.DecryptOfEncryptIsThePlaintext : Prop :=
  (∀ (keyText : List Char) (p : List Byte) (iv : Block) (mode : Mode) (s : State),
    s.busy = false →
    ∃ s₁ c s₂ s₃, construct keyText (offerEntropy (some iv) s) = .ok s₁ ∧
      encrypt p mode s₁ = .ok (c, s₂) ∧ decrypt c mode s₂ = .ok (p, s₃) ∧
      decryptOfEncrypt keyText p mode (offerEntropy (some iv) s) = .ok (p, s₃)) ∧
  (∀ (keyText : List Char) (p : List Byte), ∃ c, ∀ s : State, s.busy = false →
    ∃ t u, encryptUnderKey keyText p .ecb s = .ok (c, t) ∧ decrypt c .ecb t = .ok (p, u) ∧
      (p = [] → c.length = 32))

/-- R213, R219: the ciphertext's length in hexadecimal characters, two for each of its bytes, and the
lengths at which LengthCheck fails. The model's own: each command runs at once to its end
(notes/assumptions/14). -/
def Obligations.CiphertextLengths : Prop :=
  (∀ (s t : State) (p : List Byte) (mode : Mode) (c : List Char), IdleWithKey s →
    encrypt p mode s = .ok (c, t) →
    c.length = 32 * (p.length / 16 + match mode with
      | .ecb => 1
      | .cbc => 2)) ∧
  (∀ (c : List Byte) (mode : Mode), lengthCheck c mode = false ↔
    c.length % 16 ≠ 0 ∨ (mode = .cbc ∧ c.length < 32) ∨ (mode = .ecb ∧ c.length = 0))
end

