-- ==== Sys2Proof/Laws/Decode.lean ====
section
/-! SUPPORT. Bits of a word built from fields, the one-bit names, and what the masks of the table say
about a word (spec/30_encoding.md R80 to R88). -/

namespace Sys2Proof

@[simp] theorem Dir.bit_ofBit (b : Bool) : (Dir.ofBit b).bit = b := by cases b <;> rfl
@[simp] theorem Dir.ofBit_bit (d : Dir) : Dir.ofBit d.bit = d := by cases d <;> rfl
@[simp] theorem Mode.bit_ofBit (b : Bool) : (Mode.ofBit b).bit = b := by cases b <;> rfl
@[simp] theorem Mode.ofBit_bit (m : Mode) : Mode.ofBit m.bit = m := by cases m <;> rfl

theorem fieldAt_getLsbD (n : Nat) {width : Nat} (x : BitVec width) (i : Nat) :
    (fieldAt n x).getLsbD i = (decide (i < 32) && decide (n ≤ i) && x.getLsbD (i - n)) := by
  by_cases h1 : i < 32 <;> by_cases h2 : n ≤ i <;> simp [fieldAt, h1, h2]

/-- Bit `i` of a word with one field is bit `i - n` of the field. -/
theorem fieldAt_getElem (n : Nat) {width : Nat} (x : BitVec width) (i : Nat) (h : i < 32) :
    (fieldAt n x)[i] = (decide (n ≤ i) && x.getLsbD (i - n)) := by
  rw [← BitVec.getLsbD_eq_getElem, fieldAt_getLsbD]
  simp [h]

/-- A word that matches the row of START is the word of its two fields. -/
theorem eq_encode_start (w : Word) (h : w &&& 0xFFFFFFCF#32 = 0x00000004#32) :
    encode (.start (dirField w) (modeField w)) = w := by
  apply BitVec.eq_of_getLsbD_eq
  intro n hn
  have := congrArg (fun v => BitVec.getLsbD v n) h
  simp only [BitVec.getLsbD_and] at this
  interval_cases n <;> simp_all [encode, bitAt, dirField, modeField, fieldAt_getElem]

/-- A word that matches the row of FINAL is the word of its NB field. -/
theorem eq_encode_final (w : Word) (h : w &&& 0xFFFFF0FF#32 = 0x00000006#32) :
    encode (.final (nbField w)) = w := by
  rw [encode, nbField, BitVec.ofNat_toNat]
  apply BitVec.eq_of_getLsbD_eq
  intro n hn
  have := congrArg (fun v => BitVec.getLsbD v n) h
  simp only [BitVec.getLsbD_and] at this
  interval_cases n <;> simp_all [fieldAt_getElem]

/-- NB is a four-bit field. -/
theorem nbField_lt (w : Word) : nbField w < 16 := (w.extractLsb' 8 4).isLt

/-- The opcode of a word that agrees with `v` on bits 3:0. -/
theorem opField_of_and (w m v : Word) (h : w &&& m = v) (hm : m.extractLsb' 0 4 = 0xF#4) :
    opField w = v.extractLsb' 0 4 := by
  subst h
  apply BitVec.eq_of_getLsbD_eq
  intro n hn
  have hb : (m.extractLsb' 0 4).getLsbD n = true := by rw [hm]; interval_cases n <;> rfl
  interval_cases n <;> simp at hb <;> simp [opField, hb]

/-- Everything decoding can answer: one line for each row of the table. -/
theorem decode_cases (w : Word) :
    (w = 0x00000001#32 ∧ decode w = .ok .keyexp) ∨ (w = 0x00000002#32 ∧ decode w = .ok .encb) ∨
    (w = 0x00000003#32 ∧ decode w = .ok .decb) ∨
    (w &&& 0xFFFFFFCF#32 = 0x00000004#32 ∧ decode w = .ok (.start (dirField w) (modeField w))) ∨
    (w = 0x00000005#32 ∧ decode w = .ok .block) ∨
    (w &&& 0xFFFFF0FF#32 = 0x00000006#32 ∧ decode w = .ok (.final (nbField w))) ∨
    (w = 0x00000007#32 ∧ decode w = .ok .abort) ∨
    (decode w = .error (illegalReason w) ∧ w ≠ 0x00000001#32 ∧ w ≠ 0x00000002#32 ∧
      w ≠ 0x00000003#32 ∧ w &&& 0xFFFFFFCF#32 ≠ 0x00000004#32 ∧ w ≠ 0x00000005#32 ∧
      w &&& 0xFFFFF0FF#32 ≠ 0x00000006#32 ∧ w ≠ 0x00000007#32) := by
  by_cases h1 : w = 0x00000001#32
  · subst h1; exact .inl ⟨rfl, rfl⟩
  by_cases h2 : w = 0x00000002#32
  · subst h2; exact .inr (.inl ⟨rfl, rfl⟩)
  by_cases h3 : w = 0x00000003#32
  · subst h3; exact .inr (.inr (.inl ⟨rfl, rfl⟩))
  by_cases h4 : w &&& 0xFFFFFFCF#32 = 0x00000004#32
  · have ho := opField_of_and w _ _ h4 (by decide)
    simp only [BitVec.extractLsb'] at ho
    exact .inr (.inr (.inr (.inl ⟨h4, by simp [decode, h1, h2, h3, h4, ho]⟩)))
  by_cases h5 : w = 0x00000005#32
  · subst h5; exact .inr (.inr (.inr (.inr (.inl ⟨rfl, rfl⟩))))
  by_cases h6 : w &&& 0xFFFFF0FF#32 = 0x00000006#32
  · have ho := opField_of_and w _ _ h6 (by decide)
    simp only [BitVec.extractLsb'] at ho
    exact .inr (.inr (.inr (.inr (.inr (.inl ⟨h6, by simp [decode, h1, h2, h3, h4, h5, h6, ho]⟩)))))
  by_cases h7 : w = 0x00000007#32
  · subst h7; exact .inr (.inr (.inr (.inr (.inr (.inr (.inl ⟨rfl, rfl⟩))))))
  · exact .inr (.inr (.inr (.inr (.inr (.inr (.inr
      ⟨by simp [decode, h1, h2, h3, h4, h5, h6, h7], h1, h2, h3, h4, h5, h6, h7⟩))))))

end Sys2Proof
end

