-- ==== Sys2Proof/Laws/Cipher.lean ====
section
/-! SUPPORT. The byte of each layer's result at an index (spec/40_round_transform.md R101 to R107), of
the block operands (spec/20_memory.md R62, spec/42_modes_padding.md R174) and of the expanded keys
(spec/41_key_schedule.md R142). -/

namespace Sys2Proof.Machine

@[simp] theorem sub_getElem (b : Block) (i : Nat) (h : i < 16) : (sub b)[i] = 3 * b[i] + 7 := by
  simp [sub]

@[simp] theorem invSub_getElem (b : Block) (i : Nat) (h : i < 16) :
    (invSub b)[i] = (b[i] - 7) * 171 := by
  simp [invSub]

theorem perm_getElem (b : Block) (i : Nat) (h : i < 16) :
    (perm b)[i] = b[4 * (i / 4) + (i % 4 + i / 4) % 4] := by
  simp [perm]

theorem invPerm_getElem (b : Block) (i : Nat) (h : i < 16) :
    (invPerm b)[i] = b[4 * (i / 4) + (i % 4 + 4 - i / 4) % 4] := by
  simp [invPerm]

/-- Mix on a byte below the last. -/
theorem mix_getElem_lt (b : Block) (i : Nat) (h : i < 15) : (mix b)[i] = b[i] + b[i + 1] := by
  have h15 : ¬ 15 = i := by omega
  simp [mix, mixPass, h15, h]

/-- Mix on the last byte: the wrap-around step reads the updated byte 0. -/
theorem mix_getElem_last (b : Block) : (mix b)[15] = b[15] + (b[0] + b[1]) := by
  simp [mix, mixPass]

/-- The InverseMix loop leaves the bytes from `n` up as they are. -/
theorem invMixLoop_getElem_ge (n : Nat) (hn : n ≤ 15) (u : Block) (i : Nat) (h : i < 16)
    (hi : n ≤ i) : (invMixLoop n hn u)[i] = u[i] := by
  induction n generalizing u with
  | zero => rfl
  | succ n ih =>
    have hne : ¬ n = i := by omega
    rw [invMixLoop, ih _ _ (by omega), Vector.getElem_set]
    simp [hne]

/-- The InverseMix loop restores each byte below `n` from the restored byte above it. -/
theorem invMixLoop_getElem_lt (n : Nat) (hn : n ≤ 15) (u : Block) (i : Nat) (hi : i < n) :
    (invMixLoop n hn u)[i] = u[i] - (invMixLoop n hn u)[i + 1] := by
  induction n generalizing u with
  | zero => omega
  | succ n ih =>
    simp only [invMixLoop]
    by_cases h : i = n
    · subst h
      rw [invMixLoop_getElem_ge i (by omega) _ i (by omega) (by omega),
        invMixLoop_getElem_ge i (by omega) _ (i + 1) (by omega) (by omega)]
      simp
    · have hne : ¬ n = i := by omega
      rw [ih _ _ (by omega), Vector.getElem_set]
      simp [hne]

/-- InverseMix on the last byte: the wrap step, on the still mixed byte 0. -/
theorem invMix_getElem_last (b : Block) : (invMix b)[15] = b[15] - b[0] := by
  rw [invMix, invMixLoop_getElem_ge 15 (by omega) _ 15 (by omega) (by omega)]
  simp

/-- InverseMix on a byte below the last. -/
theorem invMix_getElem_lt (b : Block) (i : Nat) (h : i < 15) :
    (invMix b)[i] = b[i] - (invMix b)[i + 1] := by
  have hne : ¬ 15 = i := by omega
  conv_lhs => rw [invMix, invMixLoop_getElem_lt 15 (by omega) _ i h]
  simp [invMix, hne]

@[simp] theorem xorBlock_getElem (a b : Block) (i : Nat) (h : i < 16) :
    (xorBlock a b)[i] = a[i] ^^^ b[i] := by
  simp [xorBlock]

@[simp] theorem addRK_getElem (b k : Block) (i : Nat) (h : i < 16) :
    (addRK b k)[i] = b[i] ^^^ k[i] := by
  simp [addRK]

/-- The bytes of DIN an encrypting FINAL keeps. -/
theorem finalChunk_getElem_lt (nb : Nat) (din : Block) (i : Nat) (h : i < 16) (hi : i < nb) :
    (finalChunk nb din)[i] = din[i] := by
  simp [finalChunk, hi]

/-- The padding bytes of an encrypting FINAL. -/
theorem finalChunk_getElem_ge (nb : Nat) (din : Block) (i : Nat) (h : i < 16) (hi : nb ≤ i) :
    (finalChunk nb din)[i] = BitVec.ofNat 8 (16 - nb) := by
  have : ¬ i < nb := by omega
  simp [finalChunk, this]

/-- A write of one word of a block register, at every byte. -/
theorem setWordOfBlock_getElem (b : Block) (k : Fin 4) (v : Word) (i : Nat) (h : i < 16) :
    (setWordOfBlock b k v)[i] = if i / 4 = k.val then byteOfWord v (i % 4) else b[i] := by
  simp [setWordOfBlock]

/-- Byte `j` of word `k` of a block is byte `4k + j` of the block. -/
theorem byteOfWord_wordOfBlock (b : Block) (k : Fin 4) (j : Nat) (h : j < 4) :
    byteOfWord (wordOfBlock b k) j = b[4 * k.val + j] := by
  apply BitVec.eq_of_getLsbD_eq
  intro n hn
  interval_cases j <;> interval_cases n <;> simp [byteOfWord, wordOfBlock, fieldAt_getElem]

theorem keyExpand_getElem (mk : Block) (i : Nat) (h : i < 11) :
    (keyExpand mk)[i] = expandedKey Config.d256 mk i := by
  simp [keyExpand, keyExpandWith]

theorem first16_getElem (d : Vector Byte 32) (j : Nat) (h : j < 16) : (first16 d)[j] = d[j] := by
  simp [first16]

end Sys2Proof.Machine
end

