-- ==== Sys2Proof/Laws/State.lean ====
section
/-! SUPPORT. What each named update of the state leaves in each field, true by computation. Later
proofs rewrite with these and unfold no record update. -/

namespace Sys2Proof.Machine

variable (s : State)

/-! ### complete (R244) -/

@[simp] theorem complete_ie : (complete s).ie = s.ie := rfl
@[simp] theorem complete_busy : (complete s).busy = false := rfl
@[simp] theorem complete_done : (complete s).done = true := rfl
@[simp] theorem complete_ovr : (complete s).ovr = s.ovr := rfl
@[simp] theorem complete_err : (complete s).err = .ok := rfl
@[simp] theorem complete_keyv : (complete s).keyv = s.keyv := rfl
@[simp] theorem complete_mopen : (complete s).mopen = s.mopen := rfl
@[simp] theorem complete_mdir : (complete s).mdir = s.mdir := rfl
@[simp] theorem complete_mmode : (complete s).mmode = s.mmode := rfl
@[simp] theorem complete_ivpend : (complete s).ivpend = s.ivpend := rfl
@[simp] theorem complete_outv : (complete s).outv = s.outv := rfl
@[simp] theorem complete_padlen : (complete s).padlen = s.padlen := rfl
@[simp] theorem complete_mk : (complete s).mk = s.mk := rfl
@[simp] theorem complete_din : (complete s).din = s.din := rfl
@[simp] theorem complete_dout : (complete s).dout = s.dout := rfl
@[simp] theorem complete_rk : (complete s).rk = s.rk := rfl
@[simp] theorem complete_chain : (complete s).chain = s.chain := rfl
@[simp] theorem complete_pend : (complete s).pend = s.pend := rfl
@[simp] theorem complete_env : (complete s).env = s.env := rfl

/-! ### raiseError (R245) -/

@[simp] theorem raiseError_ie (c : ErrCode) : (raiseError c s).ie = s.ie := rfl
@[simp] theorem raiseError_busy (c : ErrCode) : (raiseError c s).busy = false := rfl
@[simp] theorem raiseError_done (c : ErrCode) : (raiseError c s).done = true := rfl
@[simp] theorem raiseError_ovr (c : ErrCode) : (raiseError c s).ovr = s.ovr := rfl
@[simp] theorem raiseError_err (c : ErrCode) : (raiseError c s).err = c := rfl
@[simp] theorem raiseError_keyv (c : ErrCode) : (raiseError c s).keyv = s.keyv := rfl
@[simp] theorem raiseError_mopen (c : ErrCode) : (raiseError c s).mopen = s.mopen := rfl
@[simp] theorem raiseError_mdir (c : ErrCode) : (raiseError c s).mdir = s.mdir := rfl
@[simp] theorem raiseError_mmode (c : ErrCode) : (raiseError c s).mmode = s.mmode := rfl
@[simp] theorem raiseError_ivpend (c : ErrCode) : (raiseError c s).ivpend = s.ivpend := rfl
@[simp] theorem raiseError_outv (c : ErrCode) : (raiseError c s).outv = s.outv := rfl
@[simp] theorem raiseError_padlen (c : ErrCode) : (raiseError c s).padlen = s.padlen := rfl
@[simp] theorem raiseError_mk (c : ErrCode) : (raiseError c s).mk = s.mk := rfl
@[simp] theorem raiseError_din (c : ErrCode) : (raiseError c s).din = s.din := rfl
@[simp] theorem raiseError_dout (c : ErrCode) : (raiseError c s).dout = s.dout := rfl
@[simp] theorem raiseError_rk (c : ErrCode) : (raiseError c s).rk = s.rk := rfl
@[simp] theorem raiseError_chain (c : ErrCode) : (raiseError c s).chain = s.chain := rfl
@[simp] theorem raiseError_pend (c : ErrCode) : (raiseError c s).pend = s.pend := rfl
@[simp] theorem raiseError_env (c : ErrCode) : (raiseError c s).env = s.env := rfl

/-! ### closeMessage (R169) -/

@[simp] theorem closeMessage_ie : (closeMessage s).ie = s.ie := rfl
@[simp] theorem closeMessage_busy : (closeMessage s).busy = s.busy := rfl
@[simp] theorem closeMessage_done : (closeMessage s).done = s.done := rfl
@[simp] theorem closeMessage_ovr : (closeMessage s).ovr = s.ovr := rfl
@[simp] theorem closeMessage_err : (closeMessage s).err = s.err := rfl
@[simp] theorem closeMessage_keyv : (closeMessage s).keyv = s.keyv := rfl
@[simp] theorem closeMessage_mopen : (closeMessage s).mopen = false := rfl
@[simp] theorem closeMessage_mdir : (closeMessage s).mdir = .encrypt := rfl
@[simp] theorem closeMessage_mmode : (closeMessage s).mmode = .ecb := rfl
@[simp] theorem closeMessage_ivpend : (closeMessage s).ivpend = false := rfl
@[simp] theorem closeMessage_outv : (closeMessage s).outv = s.outv := rfl
@[simp] theorem closeMessage_padlen : (closeMessage s).padlen = s.padlen := rfl
@[simp] theorem closeMessage_mk : (closeMessage s).mk = s.mk := rfl
@[simp] theorem closeMessage_din : (closeMessage s).din = s.din := rfl
@[simp] theorem closeMessage_dout : (closeMessage s).dout = s.dout := rfl
@[simp] theorem closeMessage_rk : (closeMessage s).rk = s.rk := rfl
@[simp] theorem closeMessage_chain : (closeMessage s).chain = Block.zero := rfl
@[simp] theorem closeMessage_pend : (closeMessage s).pend = s.pend := rfl
@[simp] theorem closeMessage_env : (closeMessage s).env = s.env := rfl

/-! ### openMessage (R170) -/

@[simp] theorem openMessage_ie (d : Dir) (m : Mode) (p : Bool) (ch : Block) : (openMessage d m p ch s).ie = s.ie := rfl
@[simp] theorem openMessage_busy (d : Dir) (m : Mode) (p : Bool) (ch : Block) : (openMessage d m p ch s).busy = s.busy := rfl
@[simp] theorem openMessage_done (d : Dir) (m : Mode) (p : Bool) (ch : Block) : (openMessage d m p ch s).done = s.done := rfl
@[simp] theorem openMessage_ovr (d : Dir) (m : Mode) (p : Bool) (ch : Block) : (openMessage d m p ch s).ovr = s.ovr := rfl
@[simp] theorem openMessage_err (d : Dir) (m : Mode) (p : Bool) (ch : Block) : (openMessage d m p ch s).err = s.err := rfl
@[simp] theorem openMessage_keyv (d : Dir) (m : Mode) (p : Bool) (ch : Block) : (openMessage d m p ch s).keyv = s.keyv := rfl
@[simp] theorem openMessage_mopen (d : Dir) (m : Mode) (p : Bool) (ch : Block) : (openMessage d m p ch s).mopen = true := rfl
@[simp] theorem openMessage_mdir (d : Dir) (m : Mode) (p : Bool) (ch : Block) : (openMessage d m p ch s).mdir = d := rfl
@[simp] theorem openMessage_mmode (d : Dir) (m : Mode) (p : Bool) (ch : Block) : (openMessage d m p ch s).mmode = m := rfl
@[simp] theorem openMessage_ivpend (d : Dir) (m : Mode) (p : Bool) (ch : Block) : (openMessage d m p ch s).ivpend = p := rfl
@[simp] theorem openMessage_outv (d : Dir) (m : Mode) (p : Bool) (ch : Block) : (openMessage d m p ch s).outv = s.outv := rfl
@[simp] theorem openMessage_padlen (d : Dir) (m : Mode) (p : Bool) (ch : Block) : (openMessage d m p ch s).padlen = s.padlen := rfl
@[simp] theorem openMessage_mk (d : Dir) (m : Mode) (p : Bool) (ch : Block) : (openMessage d m p ch s).mk = s.mk := rfl
@[simp] theorem openMessage_din (d : Dir) (m : Mode) (p : Bool) (ch : Block) : (openMessage d m p ch s).din = s.din := rfl
@[simp] theorem openMessage_dout (d : Dir) (m : Mode) (p : Bool) (ch : Block) : (openMessage d m p ch s).dout = s.dout := rfl
@[simp] theorem openMessage_rk (d : Dir) (m : Mode) (p : Bool) (ch : Block) : (openMessage d m p ch s).rk = s.rk := rfl
@[simp] theorem openMessage_chain (d : Dir) (m : Mode) (p : Bool) (ch : Block) : (openMessage d m p ch s).chain = ch := rfl
@[simp] theorem openMessage_pend (d : Dir) (m : Mode) (p : Bool) (ch : Block) : (openMessage d m p ch s).pend = s.pend := rfl
@[simp] theorem openMessage_env (d : Dir) (m : Mode) (p : Bool) (ch : Block) : (openMessage d m p ch s).env = s.env := rfl

/-! ### emitBlock (R34) -/

@[simp] theorem emitBlock_ie (b : Block) : (emitBlock b s).ie = s.ie := rfl
@[simp] theorem emitBlock_busy (b : Block) : (emitBlock b s).busy = s.busy := rfl
@[simp] theorem emitBlock_done (b : Block) : (emitBlock b s).done = s.done := rfl
@[simp] theorem emitBlock_ovr (b : Block) : (emitBlock b s).ovr = s.ovr := rfl
@[simp] theorem emitBlock_err (b : Block) : (emitBlock b s).err = s.err := rfl
@[simp] theorem emitBlock_keyv (b : Block) : (emitBlock b s).keyv = s.keyv := rfl
@[simp] theorem emitBlock_mopen (b : Block) : (emitBlock b s).mopen = s.mopen := rfl
@[simp] theorem emitBlock_mdir (b : Block) : (emitBlock b s).mdir = s.mdir := rfl
@[simp] theorem emitBlock_mmode (b : Block) : (emitBlock b s).mmode = s.mmode := rfl
@[simp] theorem emitBlock_ivpend (b : Block) : (emitBlock b s).ivpend = s.ivpend := rfl
@[simp] theorem emitBlock_outv (b : Block) : (emitBlock b s).outv = true := rfl
@[simp] theorem emitBlock_padlen (b : Block) : (emitBlock b s).padlen = s.padlen := rfl
@[simp] theorem emitBlock_mk (b : Block) : (emitBlock b s).mk = s.mk := rfl
@[simp] theorem emitBlock_din (b : Block) : (emitBlock b s).din = s.din := rfl
@[simp] theorem emitBlock_dout (b : Block) : (emitBlock b s).dout = b := rfl
@[simp] theorem emitBlock_rk (b : Block) : (emitBlock b s).rk = s.rk := rfl
@[simp] theorem emitBlock_chain (b : Block) : (emitBlock b s).chain = s.chain := rfl
@[simp] theorem emitBlock_pend (b : Block) : (emitBlock b s).pend = s.pend := rfl
@[simp] theorem emitBlock_env (b : Block) : (emitBlock b s).env = s.env := rfl

/-! ### noOutput (R34) -/

@[simp] theorem noOutput_ie : (noOutput s).ie = s.ie := rfl
@[simp] theorem noOutput_busy : (noOutput s).busy = s.busy := rfl
@[simp] theorem noOutput_done : (noOutput s).done = s.done := rfl
@[simp] theorem noOutput_ovr : (noOutput s).ovr = s.ovr := rfl
@[simp] theorem noOutput_err : (noOutput s).err = s.err := rfl
@[simp] theorem noOutput_keyv : (noOutput s).keyv = s.keyv := rfl
@[simp] theorem noOutput_mopen : (noOutput s).mopen = s.mopen := rfl
@[simp] theorem noOutput_mdir : (noOutput s).mdir = s.mdir := rfl
@[simp] theorem noOutput_mmode : (noOutput s).mmode = s.mmode := rfl
@[simp] theorem noOutput_ivpend : (noOutput s).ivpend = s.ivpend := rfl
@[simp] theorem noOutput_outv : (noOutput s).outv = false := rfl
@[simp] theorem noOutput_padlen : (noOutput s).padlen = s.padlen := rfl
@[simp] theorem noOutput_mk : (noOutput s).mk = s.mk := rfl
@[simp] theorem noOutput_din : (noOutput s).din = s.din := rfl
@[simp] theorem noOutput_dout : (noOutput s).dout = s.dout := rfl
@[simp] theorem noOutput_rk : (noOutput s).rk = s.rk := rfl
@[simp] theorem noOutput_chain : (noOutput s).chain = s.chain := rfl
@[simp] theorem noOutput_pend : (noOutput s).pend = s.pend := rfl
@[simp] theorem noOutput_env : (noOutput s).env = s.env := rfl

/-! ### zeroOutput (R175, R176) -/

@[simp] theorem zeroOutput_ie : (zeroOutput s).ie = s.ie := rfl
@[simp] theorem zeroOutput_busy : (zeroOutput s).busy = s.busy := rfl
@[simp] theorem zeroOutput_done : (zeroOutput s).done = s.done := rfl
@[simp] theorem zeroOutput_ovr : (zeroOutput s).ovr = s.ovr := rfl
@[simp] theorem zeroOutput_err : (zeroOutput s).err = s.err := rfl
@[simp] theorem zeroOutput_keyv : (zeroOutput s).keyv = s.keyv := rfl
@[simp] theorem zeroOutput_mopen : (zeroOutput s).mopen = s.mopen := rfl
@[simp] theorem zeroOutput_mdir : (zeroOutput s).mdir = s.mdir := rfl
@[simp] theorem zeroOutput_mmode : (zeroOutput s).mmode = s.mmode := rfl
@[simp] theorem zeroOutput_ivpend : (zeroOutput s).ivpend = s.ivpend := rfl
@[simp] theorem zeroOutput_outv : (zeroOutput s).outv = false := rfl
@[simp] theorem zeroOutput_padlen : (zeroOutput s).padlen = 0 := rfl
@[simp] theorem zeroOutput_mk : (zeroOutput s).mk = s.mk := rfl
@[simp] theorem zeroOutput_din : (zeroOutput s).din = s.din := rfl
@[simp] theorem zeroOutput_dout : (zeroOutput s).dout = Block.zero := rfl
@[simp] theorem zeroOutput_rk : (zeroOutput s).rk = s.rk := rfl
@[simp] theorem zeroOutput_chain : (zeroOutput s).chain = s.chain := rfl
@[simp] theorem zeroOutput_pend : (zeroOutput s).pend = s.pend := rfl
@[simp] theorem zeroOutput_env : (zeroOutput s).env = s.env := rfl

/-! ### setPadlen (R35) -/

@[simp] theorem setPadlen_ie (n : Nat) : (setPadlen n s).ie = s.ie := rfl
@[simp] theorem setPadlen_busy (n : Nat) : (setPadlen n s).busy = s.busy := rfl
@[simp] theorem setPadlen_done (n : Nat) : (setPadlen n s).done = s.done := rfl
@[simp] theorem setPadlen_ovr (n : Nat) : (setPadlen n s).ovr = s.ovr := rfl
@[simp] theorem setPadlen_err (n : Nat) : (setPadlen n s).err = s.err := rfl
@[simp] theorem setPadlen_keyv (n : Nat) : (setPadlen n s).keyv = s.keyv := rfl
@[simp] theorem setPadlen_mopen (n : Nat) : (setPadlen n s).mopen = s.mopen := rfl
@[simp] theorem setPadlen_mdir (n : Nat) : (setPadlen n s).mdir = s.mdir := rfl
@[simp] theorem setPadlen_mmode (n : Nat) : (setPadlen n s).mmode = s.mmode := rfl
@[simp] theorem setPadlen_ivpend (n : Nat) : (setPadlen n s).ivpend = s.ivpend := rfl
@[simp] theorem setPadlen_outv (n : Nat) : (setPadlen n s).outv = s.outv := rfl
@[simp] theorem setPadlen_padlen (n : Nat) : (setPadlen n s).padlen = BitVec.ofNat 5 n := rfl
@[simp] theorem setPadlen_mk (n : Nat) : (setPadlen n s).mk = s.mk := rfl
@[simp] theorem setPadlen_din (n : Nat) : (setPadlen n s).din = s.din := rfl
@[simp] theorem setPadlen_dout (n : Nat) : (setPadlen n s).dout = s.dout := rfl
@[simp] theorem setPadlen_rk (n : Nat) : (setPadlen n s).rk = s.rk := rfl
@[simp] theorem setPadlen_chain (n : Nat) : (setPadlen n s).chain = s.chain := rfl
@[simp] theorem setPadlen_pend (n : Nat) : (setPadlen n s).pend = s.pend := rfl
@[simp] theorem setPadlen_env (n : Nat) : (setPadlen n s).env = s.env := rfl

/-! ### clearStatus (R36) -/

@[simp] theorem clearStatus_ie (v : Word) : (clearStatus v s).ie = s.ie := rfl
@[simp] theorem clearStatus_busy (v : Word) : (clearStatus v s).busy = s.busy := rfl
@[simp] theorem clearStatus_done (v : Word) : (clearStatus v s).done = (s.done && !v.getLsbD 1) := rfl
@[simp] theorem clearStatus_ovr (v : Word) : (clearStatus v s).ovr = (s.ovr && !v.getLsbD 2) := rfl
@[simp] theorem clearStatus_err (v : Word) : (clearStatus v s).err = s.err := rfl
@[simp] theorem clearStatus_keyv (v : Word) : (clearStatus v s).keyv = s.keyv := rfl
@[simp] theorem clearStatus_mopen (v : Word) : (clearStatus v s).mopen = s.mopen := rfl
@[simp] theorem clearStatus_mdir (v : Word) : (clearStatus v s).mdir = s.mdir := rfl
@[simp] theorem clearStatus_mmode (v : Word) : (clearStatus v s).mmode = s.mmode := rfl
@[simp] theorem clearStatus_ivpend (v : Word) : (clearStatus v s).ivpend = s.ivpend := rfl
@[simp] theorem clearStatus_outv (v : Word) : (clearStatus v s).outv = s.outv := rfl
@[simp] theorem clearStatus_padlen (v : Word) : (clearStatus v s).padlen = s.padlen := rfl
@[simp] theorem clearStatus_mk (v : Word) : (clearStatus v s).mk = s.mk := rfl
@[simp] theorem clearStatus_din (v : Word) : (clearStatus v s).din = s.din := rfl
@[simp] theorem clearStatus_dout (v : Word) : (clearStatus v s).dout = s.dout := rfl
@[simp] theorem clearStatus_rk (v : Word) : (clearStatus v s).rk = s.rk := rfl
@[simp] theorem clearStatus_chain (v : Word) : (clearStatus v s).chain = s.chain := rfl
@[simp] theorem clearStatus_pend (v : Word) : (clearStatus v s).pend = s.pend := rfl
@[simp] theorem clearStatus_env (v : Word) : (clearStatus v s).env = s.env := rfl

/-! ### setChain (R42) -/

@[simp] theorem setChain_ie (c : Block) : (setChain c s).ie = s.ie := rfl
@[simp] theorem setChain_busy (c : Block) : (setChain c s).busy = s.busy := rfl
@[simp] theorem setChain_done (c : Block) : (setChain c s).done = s.done := rfl
@[simp] theorem setChain_ovr (c : Block) : (setChain c s).ovr = s.ovr := rfl
@[simp] theorem setChain_err (c : Block) : (setChain c s).err = s.err := rfl
@[simp] theorem setChain_keyv (c : Block) : (setChain c s).keyv = s.keyv := rfl
@[simp] theorem setChain_mopen (c : Block) : (setChain c s).mopen = s.mopen := rfl
@[simp] theorem setChain_mdir (c : Block) : (setChain c s).mdir = s.mdir := rfl
@[simp] theorem setChain_mmode (c : Block) : (setChain c s).mmode = s.mmode := rfl
@[simp] theorem setChain_ivpend (c : Block) : (setChain c s).ivpend = s.ivpend := rfl
@[simp] theorem setChain_outv (c : Block) : (setChain c s).outv = s.outv := rfl
@[simp] theorem setChain_padlen (c : Block) : (setChain c s).padlen = s.padlen := rfl
@[simp] theorem setChain_mk (c : Block) : (setChain c s).mk = s.mk := rfl
@[simp] theorem setChain_din (c : Block) : (setChain c s).din = s.din := rfl
@[simp] theorem setChain_dout (c : Block) : (setChain c s).dout = s.dout := rfl
@[simp] theorem setChain_rk (c : Block) : (setChain c s).rk = s.rk := rfl
@[simp] theorem setChain_chain (c : Block) : (setChain c s).chain = c := rfl
@[simp] theorem setChain_pend (c : Block) : (setChain c s).pend = s.pend := rfl
@[simp] theorem setChain_env (c : Block) : (setChain c s).env = s.env := rfl

/-! ### clearIvpend (R33) -/

@[simp] theorem clearIvpend_ie : (clearIvpend s).ie = s.ie := rfl
@[simp] theorem clearIvpend_busy : (clearIvpend s).busy = s.busy := rfl
@[simp] theorem clearIvpend_done : (clearIvpend s).done = s.done := rfl
@[simp] theorem clearIvpend_ovr : (clearIvpend s).ovr = s.ovr := rfl
@[simp] theorem clearIvpend_err : (clearIvpend s).err = s.err := rfl
@[simp] theorem clearIvpend_keyv : (clearIvpend s).keyv = s.keyv := rfl
@[simp] theorem clearIvpend_mopen : (clearIvpend s).mopen = s.mopen := rfl
@[simp] theorem clearIvpend_mdir : (clearIvpend s).mdir = s.mdir := rfl
@[simp] theorem clearIvpend_mmode : (clearIvpend s).mmode = s.mmode := rfl
@[simp] theorem clearIvpend_ivpend : (clearIvpend s).ivpend = false := rfl
@[simp] theorem clearIvpend_outv : (clearIvpend s).outv = s.outv := rfl
@[simp] theorem clearIvpend_padlen : (clearIvpend s).padlen = s.padlen := rfl
@[simp] theorem clearIvpend_mk : (clearIvpend s).mk = s.mk := rfl
@[simp] theorem clearIvpend_din : (clearIvpend s).din = s.din := rfl
@[simp] theorem clearIvpend_dout : (clearIvpend s).dout = s.dout := rfl
@[simp] theorem clearIvpend_rk : (clearIvpend s).rk = s.rk := rfl
@[simp] theorem clearIvpend_chain : (clearIvpend s).chain = s.chain := rfl
@[simp] theorem clearIvpend_pend : (clearIvpend s).pend = s.pend := rfl
@[simp] theorem clearIvpend_env : (clearIvpend s).env = s.env := rfl

/-! ### installKeys (R143) -/

@[simp] theorem installKeys_ie (k : RoundKeys) : (installKeys k s).ie = s.ie := rfl
@[simp] theorem installKeys_busy (k : RoundKeys) : (installKeys k s).busy = s.busy := rfl
@[simp] theorem installKeys_done (k : RoundKeys) : (installKeys k s).done = s.done := rfl
@[simp] theorem installKeys_ovr (k : RoundKeys) : (installKeys k s).ovr = s.ovr := rfl
@[simp] theorem installKeys_err (k : RoundKeys) : (installKeys k s).err = s.err := rfl
@[simp] theorem installKeys_keyv (k : RoundKeys) : (installKeys k s).keyv = true := rfl
@[simp] theorem installKeys_mopen (k : RoundKeys) : (installKeys k s).mopen = s.mopen := rfl
@[simp] theorem installKeys_mdir (k : RoundKeys) : (installKeys k s).mdir = s.mdir := rfl
@[simp] theorem installKeys_mmode (k : RoundKeys) : (installKeys k s).mmode = s.mmode := rfl
@[simp] theorem installKeys_ivpend (k : RoundKeys) : (installKeys k s).ivpend = s.ivpend := rfl
@[simp] theorem installKeys_outv (k : RoundKeys) : (installKeys k s).outv = s.outv := rfl
@[simp] theorem installKeys_padlen (k : RoundKeys) : (installKeys k s).padlen = s.padlen := rfl
@[simp] theorem installKeys_mk (k : RoundKeys) : (installKeys k s).mk = s.mk := rfl
@[simp] theorem installKeys_din (k : RoundKeys) : (installKeys k s).din = s.din := rfl
@[simp] theorem installKeys_dout (k : RoundKeys) : (installKeys k s).dout = s.dout := rfl
@[simp] theorem installKeys_rk (k : RoundKeys) : (installKeys k s).rk = k := rfl
@[simp] theorem installKeys_chain (k : RoundKeys) : (installKeys k s).chain = s.chain := rfl
@[simp] theorem installKeys_pend (k : RoundKeys) : (installKeys k s).pend = s.pend := rfl
@[simp] theorem installKeys_env (k : RoundKeys) : (installKeys k s).env = s.env := rfl

/-! ### setOvr (R30) -/

@[simp] theorem setOvr_ie : (setOvr s).ie = s.ie := rfl
@[simp] theorem setOvr_busy : (setOvr s).busy = s.busy := rfl
@[simp] theorem setOvr_done : (setOvr s).done = s.done := rfl
@[simp] theorem setOvr_ovr : (setOvr s).ovr = true := rfl
@[simp] theorem setOvr_err : (setOvr s).err = s.err := rfl
@[simp] theorem setOvr_keyv : (setOvr s).keyv = s.keyv := rfl
@[simp] theorem setOvr_mopen : (setOvr s).mopen = s.mopen := rfl
@[simp] theorem setOvr_mdir : (setOvr s).mdir = s.mdir := rfl
@[simp] theorem setOvr_mmode : (setOvr s).mmode = s.mmode := rfl
@[simp] theorem setOvr_ivpend : (setOvr s).ivpend = s.ivpend := rfl
@[simp] theorem setOvr_outv : (setOvr s).outv = s.outv := rfl
@[simp] theorem setOvr_padlen : (setOvr s).padlen = s.padlen := rfl
@[simp] theorem setOvr_mk : (setOvr s).mk = s.mk := rfl
@[simp] theorem setOvr_din : (setOvr s).din = s.din := rfl
@[simp] theorem setOvr_dout : (setOvr s).dout = s.dout := rfl
@[simp] theorem setOvr_rk : (setOvr s).rk = s.rk := rfl
@[simp] theorem setOvr_chain : (setOvr s).chain = s.chain := rfl
@[simp] theorem setOvr_pend : (setOvr s).pend = s.pend := rfl
@[simp] theorem setOvr_env : (setOvr s).env = s.env := rfl

/-! ### acceptCommand (R280) -/

@[simp] theorem acceptCommand_ie (w : Word) : (acceptCommand w s).ie = s.ie := rfl
@[simp] theorem acceptCommand_busy (w : Word) : (acceptCommand w s).busy = true := rfl
@[simp] theorem acceptCommand_done (w : Word) : (acceptCommand w s).done = s.done := rfl
@[simp] theorem acceptCommand_ovr (w : Word) : (acceptCommand w s).ovr = s.ovr := rfl
@[simp] theorem acceptCommand_err (w : Word) : (acceptCommand w s).err = s.err := rfl
@[simp] theorem acceptCommand_keyv (w : Word) : (acceptCommand w s).keyv = s.keyv := rfl
@[simp] theorem acceptCommand_mopen (w : Word) : (acceptCommand w s).mopen = s.mopen := rfl
@[simp] theorem acceptCommand_mdir (w : Word) : (acceptCommand w s).mdir = s.mdir := rfl
@[simp] theorem acceptCommand_mmode (w : Word) : (acceptCommand w s).mmode = s.mmode := rfl
@[simp] theorem acceptCommand_ivpend (w : Word) : (acceptCommand w s).ivpend = s.ivpend := rfl
@[simp] theorem acceptCommand_outv (w : Word) : (acceptCommand w s).outv = s.outv := rfl
@[simp] theorem acceptCommand_padlen (w : Word) : (acceptCommand w s).padlen = s.padlen := rfl
@[simp] theorem acceptCommand_mk (w : Word) : (acceptCommand w s).mk = s.mk := rfl
@[simp] theorem acceptCommand_din (w : Word) : (acceptCommand w s).din = s.din := rfl
@[simp] theorem acceptCommand_dout (w : Word) : (acceptCommand w s).dout = s.dout := rfl
@[simp] theorem acceptCommand_rk (w : Word) : (acceptCommand w s).rk = s.rk := rfl
@[simp] theorem acceptCommand_chain (w : Word) : (acceptCommand w s).chain = s.chain := rfl
@[simp] theorem acceptCommand_pend (w : Word) : (acceptCommand w s).pend = w := rfl
@[simp] theorem acceptCommand_env (w : Word) : (acceptCommand w s).env = s.env := rfl

/-! ### setIe (R25) -/

@[simp] theorem setIe_ie (b : Bool) : (setIe b s).ie = b := rfl
@[simp] theorem setIe_busy (b : Bool) : (setIe b s).busy = s.busy := rfl
@[simp] theorem setIe_done (b : Bool) : (setIe b s).done = s.done := rfl
@[simp] theorem setIe_ovr (b : Bool) : (setIe b s).ovr = s.ovr := rfl
@[simp] theorem setIe_err (b : Bool) : (setIe b s).err = s.err := rfl
@[simp] theorem setIe_keyv (b : Bool) : (setIe b s).keyv = s.keyv := rfl
@[simp] theorem setIe_mopen (b : Bool) : (setIe b s).mopen = s.mopen := rfl
@[simp] theorem setIe_mdir (b : Bool) : (setIe b s).mdir = s.mdir := rfl
@[simp] theorem setIe_mmode (b : Bool) : (setIe b s).mmode = s.mmode := rfl
@[simp] theorem setIe_ivpend (b : Bool) : (setIe b s).ivpend = s.ivpend := rfl
@[simp] theorem setIe_outv (b : Bool) : (setIe b s).outv = s.outv := rfl
@[simp] theorem setIe_padlen (b : Bool) : (setIe b s).padlen = s.padlen := rfl
@[simp] theorem setIe_mk (b : Bool) : (setIe b s).mk = s.mk := rfl
@[simp] theorem setIe_din (b : Bool) : (setIe b s).din = s.din := rfl
@[simp] theorem setIe_dout (b : Bool) : (setIe b s).dout = s.dout := rfl
@[simp] theorem setIe_rk (b : Bool) : (setIe b s).rk = s.rk := rfl
@[simp] theorem setIe_chain (b : Bool) : (setIe b s).chain = s.chain := rfl
@[simp] theorem setIe_pend (b : Bool) : (setIe b s).pend = s.pend := rfl
@[simp] theorem setIe_env (b : Bool) : (setIe b s).env = s.env := rfl

/-! ### setMk (R38) -/

@[simp] theorem setMk_ie (b : Block) : (setMk b s).ie = s.ie := rfl
@[simp] theorem setMk_busy (b : Block) : (setMk b s).busy = s.busy := rfl
@[simp] theorem setMk_done (b : Block) : (setMk b s).done = s.done := rfl
@[simp] theorem setMk_ovr (b : Block) : (setMk b s).ovr = s.ovr := rfl
@[simp] theorem setMk_err (b : Block) : (setMk b s).err = s.err := rfl
@[simp] theorem setMk_keyv (b : Block) : (setMk b s).keyv = s.keyv := rfl
@[simp] theorem setMk_mopen (b : Block) : (setMk b s).mopen = s.mopen := rfl
@[simp] theorem setMk_mdir (b : Block) : (setMk b s).mdir = s.mdir := rfl
@[simp] theorem setMk_mmode (b : Block) : (setMk b s).mmode = s.mmode := rfl
@[simp] theorem setMk_ivpend (b : Block) : (setMk b s).ivpend = s.ivpend := rfl
@[simp] theorem setMk_outv (b : Block) : (setMk b s).outv = s.outv := rfl
@[simp] theorem setMk_padlen (b : Block) : (setMk b s).padlen = s.padlen := rfl
@[simp] theorem setMk_mk (b : Block) : (setMk b s).mk = b := rfl
@[simp] theorem setMk_din (b : Block) : (setMk b s).din = s.din := rfl
@[simp] theorem setMk_dout (b : Block) : (setMk b s).dout = s.dout := rfl
@[simp] theorem setMk_rk (b : Block) : (setMk b s).rk = s.rk := rfl
@[simp] theorem setMk_chain (b : Block) : (setMk b s).chain = s.chain := rfl
@[simp] theorem setMk_pend (b : Block) : (setMk b s).pend = s.pend := rfl
@[simp] theorem setMk_env (b : Block) : (setMk b s).env = s.env := rfl

/-! ### setDin (R39) -/

@[simp] theorem setDin_ie (b : Block) : (setDin b s).ie = s.ie := rfl
@[simp] theorem setDin_busy (b : Block) : (setDin b s).busy = s.busy := rfl
@[simp] theorem setDin_done (b : Block) : (setDin b s).done = s.done := rfl
@[simp] theorem setDin_ovr (b : Block) : (setDin b s).ovr = s.ovr := rfl
@[simp] theorem setDin_err (b : Block) : (setDin b s).err = s.err := rfl
@[simp] theorem setDin_keyv (b : Block) : (setDin b s).keyv = s.keyv := rfl
@[simp] theorem setDin_mopen (b : Block) : (setDin b s).mopen = s.mopen := rfl
@[simp] theorem setDin_mdir (b : Block) : (setDin b s).mdir = s.mdir := rfl
@[simp] theorem setDin_mmode (b : Block) : (setDin b s).mmode = s.mmode := rfl
@[simp] theorem setDin_ivpend (b : Block) : (setDin b s).ivpend = s.ivpend := rfl
@[simp] theorem setDin_outv (b : Block) : (setDin b s).outv = s.outv := rfl
@[simp] theorem setDin_padlen (b : Block) : (setDin b s).padlen = s.padlen := rfl
@[simp] theorem setDin_mk (b : Block) : (setDin b s).mk = s.mk := rfl
@[simp] theorem setDin_din (b : Block) : (setDin b s).din = b := rfl
@[simp] theorem setDin_dout (b : Block) : (setDin b s).dout = s.dout := rfl
@[simp] theorem setDin_rk (b : Block) : (setDin b s).rk = s.rk := rfl
@[simp] theorem setDin_chain (b : Block) : (setDin b s).chain = s.chain := rfl
@[simp] theorem setDin_pend (b : Block) : (setDin b s).pend = s.pend := rfl
@[simp] theorem setDin_env (b : Block) : (setDin b s).env = s.env := rfl

/-! ### offerEntropy (R171) -/

@[simp] theorem offerEntropy_ie (o : Option Block) : (offerEntropy o s).ie = s.ie := rfl
@[simp] theorem offerEntropy_busy (o : Option Block) : (offerEntropy o s).busy = s.busy := rfl
@[simp] theorem offerEntropy_done (o : Option Block) : (offerEntropy o s).done = s.done := rfl
@[simp] theorem offerEntropy_ovr (o : Option Block) : (offerEntropy o s).ovr = s.ovr := rfl
@[simp] theorem offerEntropy_err (o : Option Block) : (offerEntropy o s).err = s.err := rfl
@[simp] theorem offerEntropy_keyv (o : Option Block) : (offerEntropy o s).keyv = s.keyv := rfl
@[simp] theorem offerEntropy_mopen (o : Option Block) : (offerEntropy o s).mopen = s.mopen := rfl
@[simp] theorem offerEntropy_mdir (o : Option Block) : (offerEntropy o s).mdir = s.mdir := rfl
@[simp] theorem offerEntropy_mmode (o : Option Block) : (offerEntropy o s).mmode = s.mmode := rfl
@[simp] theorem offerEntropy_ivpend (o : Option Block) : (offerEntropy o s).ivpend = s.ivpend := rfl
@[simp] theorem offerEntropy_outv (o : Option Block) : (offerEntropy o s).outv = s.outv := rfl
@[simp] theorem offerEntropy_padlen (o : Option Block) : (offerEntropy o s).padlen = s.padlen := rfl
@[simp] theorem offerEntropy_mk (o : Option Block) : (offerEntropy o s).mk = s.mk := rfl
@[simp] theorem offerEntropy_din (o : Option Block) : (offerEntropy o s).din = s.din := rfl
@[simp] theorem offerEntropy_dout (o : Option Block) : (offerEntropy o s).dout = s.dout := rfl
@[simp] theorem offerEntropy_rk (o : Option Block) : (offerEntropy o s).rk = s.rk := rfl
@[simp] theorem offerEntropy_chain (o : Option Block) : (offerEntropy o s).chain = s.chain := rfl
@[simp] theorem offerEntropy_pend (o : Option Block) : (offerEntropy o s).pend = s.pend := rfl
@[simp] theorem offerEntropy_env (o : Option Block) : (offerEntropy o s).env = { s.env with entropy := o } := rfl

/-! ### setTurns (R282) -/

@[simp] theorem setTurns_ie (ts : List Turn) : (setTurns ts s).ie = s.ie := rfl
@[simp] theorem setTurns_busy (ts : List Turn) : (setTurns ts s).busy = s.busy := rfl
@[simp] theorem setTurns_done (ts : List Turn) : (setTurns ts s).done = s.done := rfl
@[simp] theorem setTurns_ovr (ts : List Turn) : (setTurns ts s).ovr = s.ovr := rfl
@[simp] theorem setTurns_err (ts : List Turn) : (setTurns ts s).err = s.err := rfl
@[simp] theorem setTurns_keyv (ts : List Turn) : (setTurns ts s).keyv = s.keyv := rfl
@[simp] theorem setTurns_mopen (ts : List Turn) : (setTurns ts s).mopen = s.mopen := rfl
@[simp] theorem setTurns_mdir (ts : List Turn) : (setTurns ts s).mdir = s.mdir := rfl
@[simp] theorem setTurns_mmode (ts : List Turn) : (setTurns ts s).mmode = s.mmode := rfl
@[simp] theorem setTurns_ivpend (ts : List Turn) : (setTurns ts s).ivpend = s.ivpend := rfl
@[simp] theorem setTurns_outv (ts : List Turn) : (setTurns ts s).outv = s.outv := rfl
@[simp] theorem setTurns_padlen (ts : List Turn) : (setTurns ts s).padlen = s.padlen := rfl
@[simp] theorem setTurns_mk (ts : List Turn) : (setTurns ts s).mk = s.mk := rfl
@[simp] theorem setTurns_din (ts : List Turn) : (setTurns ts s).din = s.din := rfl
@[simp] theorem setTurns_dout (ts : List Turn) : (setTurns ts s).dout = s.dout := rfl
@[simp] theorem setTurns_rk (ts : List Turn) : (setTurns ts s).rk = s.rk := rfl
@[simp] theorem setTurns_chain (ts : List Turn) : (setTurns ts s).chain = s.chain := rfl
@[simp] theorem setTurns_pend (ts : List Turn) : (setTurns ts s).pend = s.pend := rfl
@[simp] theorem setTurns_env (ts : List Turn) : (setTurns ts s).env = { s.env with turns := ts } := rfl

/-! ### hostGoesOn (R91) -/

@[simp] theorem hostGoesOn_ie (r : List HostOp) : (hostGoesOn r s).ie = s.ie := rfl
@[simp] theorem hostGoesOn_busy (r : List HostOp) : (hostGoesOn r s).busy = s.busy := rfl
@[simp] theorem hostGoesOn_done (r : List HostOp) : (hostGoesOn r s).done = s.done := rfl
@[simp] theorem hostGoesOn_ovr (r : List HostOp) : (hostGoesOn r s).ovr = s.ovr := rfl
@[simp] theorem hostGoesOn_err (r : List HostOp) : (hostGoesOn r s).err = s.err := rfl
@[simp] theorem hostGoesOn_keyv (r : List HostOp) : (hostGoesOn r s).keyv = s.keyv := rfl
@[simp] theorem hostGoesOn_mopen (r : List HostOp) : (hostGoesOn r s).mopen = s.mopen := rfl
@[simp] theorem hostGoesOn_mdir (r : List HostOp) : (hostGoesOn r s).mdir = s.mdir := rfl
@[simp] theorem hostGoesOn_mmode (r : List HostOp) : (hostGoesOn r s).mmode = s.mmode := rfl
@[simp] theorem hostGoesOn_ivpend (r : List HostOp) : (hostGoesOn r s).ivpend = s.ivpend := rfl
@[simp] theorem hostGoesOn_outv (r : List HostOp) : (hostGoesOn r s).outv = s.outv := rfl
@[simp] theorem hostGoesOn_padlen (r : List HostOp) : (hostGoesOn r s).padlen = s.padlen := rfl
@[simp] theorem hostGoesOn_mk (r : List HostOp) : (hostGoesOn r s).mk = s.mk := rfl
@[simp] theorem hostGoesOn_din (r : List HostOp) : (hostGoesOn r s).din = s.din := rfl
@[simp] theorem hostGoesOn_dout (r : List HostOp) : (hostGoesOn r s).dout = s.dout := rfl
@[simp] theorem hostGoesOn_rk (r : List HostOp) : (hostGoesOn r s).rk = s.rk := rfl
@[simp] theorem hostGoesOn_chain (r : List HostOp) : (hostGoesOn r s).chain = s.chain := rfl
@[simp] theorem hostGoesOn_pend (r : List HostOp) : (hostGoesOn r s).pend = s.pend := rfl
@[simp] theorem hostGoesOn_env (r : List HostOp) : (hostGoesOn r s).env = { s.env with hostProg := r } := rfl

/-! ### hostRead (R65) -/

@[simp] theorem hostRead_ie (a : Access) (g : Reg) : (hostRead a g s).ie = s.ie := rfl
@[simp] theorem hostRead_busy (a : Access) (g : Reg) : (hostRead a g s).busy = s.busy := rfl
@[simp] theorem hostRead_done (a : Access) (g : Reg) : (hostRead a g s).done = s.done := rfl
@[simp] theorem hostRead_ovr (a : Access) (g : Reg) : (hostRead a g s).ovr = s.ovr := rfl
@[simp] theorem hostRead_err (a : Access) (g : Reg) : (hostRead a g s).err = s.err := rfl
@[simp] theorem hostRead_keyv (a : Access) (g : Reg) : (hostRead a g s).keyv = s.keyv := rfl
@[simp] theorem hostRead_mopen (a : Access) (g : Reg) : (hostRead a g s).mopen = s.mopen := rfl
@[simp] theorem hostRead_mdir (a : Access) (g : Reg) : (hostRead a g s).mdir = s.mdir := rfl
@[simp] theorem hostRead_mmode (a : Access) (g : Reg) : (hostRead a g s).mmode = s.mmode := rfl
@[simp] theorem hostRead_ivpend (a : Access) (g : Reg) : (hostRead a g s).ivpend = s.ivpend := rfl
@[simp] theorem hostRead_outv (a : Access) (g : Reg) : (hostRead a g s).outv = s.outv := rfl
@[simp] theorem hostRead_padlen (a : Access) (g : Reg) : (hostRead a g s).padlen = s.padlen := rfl
@[simp] theorem hostRead_mk (a : Access) (g : Reg) : (hostRead a g s).mk = s.mk := rfl
@[simp] theorem hostRead_din (a : Access) (g : Reg) : (hostRead a g s).din = s.din := rfl
@[simp] theorem hostRead_dout (a : Access) (g : Reg) : (hostRead a g s).dout = s.dout := rfl
@[simp] theorem hostRead_rk (a : Access) (g : Reg) : (hostRead a g s).rk = s.rk := rfl
@[simp] theorem hostRead_chain (a : Access) (g : Reg) : (hostRead a g s).chain = s.chain := rfl
@[simp] theorem hostRead_pend (a : Access) (g : Reg) : (hostRead a g s).pend = s.pend := rfl
@[simp] theorem hostRead_env (a : Access) (g : Reg) : (hostRead a g s).env = { s.env with hostReads := s.env.hostReads ++ [(a.off, readReg g s)] } := rfl

/-! ### resetCore (R271) -/

@[simp] theorem resetCore_ie : (resetCore s).ie = State.reset.ie := rfl
@[simp] theorem resetCore_busy : (resetCore s).busy = State.reset.busy := rfl
@[simp] theorem resetCore_done : (resetCore s).done = State.reset.done := rfl
@[simp] theorem resetCore_ovr : (resetCore s).ovr = State.reset.ovr := rfl
@[simp] theorem resetCore_err : (resetCore s).err = State.reset.err := rfl
@[simp] theorem resetCore_keyv : (resetCore s).keyv = State.reset.keyv := rfl
@[simp] theorem resetCore_mopen : (resetCore s).mopen = State.reset.mopen := rfl
@[simp] theorem resetCore_mdir : (resetCore s).mdir = State.reset.mdir := rfl
@[simp] theorem resetCore_mmode : (resetCore s).mmode = State.reset.mmode := rfl
@[simp] theorem resetCore_ivpend : (resetCore s).ivpend = State.reset.ivpend := rfl
@[simp] theorem resetCore_outv : (resetCore s).outv = State.reset.outv := rfl
@[simp] theorem resetCore_padlen : (resetCore s).padlen = State.reset.padlen := rfl
@[simp] theorem resetCore_mk : (resetCore s).mk = State.reset.mk := rfl
@[simp] theorem resetCore_din : (resetCore s).din = State.reset.din := rfl
@[simp] theorem resetCore_dout : (resetCore s).dout = State.reset.dout := rfl
@[simp] theorem resetCore_rk : (resetCore s).rk = State.reset.rk := rfl
@[simp] theorem resetCore_chain : (resetCore s).chain = State.reset.chain := rfl
@[simp] theorem resetCore_pend : (resetCore s).pend = State.reset.pend := rfl
@[simp] theorem resetCore_env : (resetCore s).env = s.env := rfl

/-! ### takeTurn (R282): only the schedule changes -/

@[simp] theorem takeTurn_ie : (takeTurn s).2.ie = s.ie := by
  unfold takeTurn; split <;> rfl
@[simp] theorem takeTurn_busy : (takeTurn s).2.busy = s.busy := by
  unfold takeTurn; split <;> rfl
@[simp] theorem takeTurn_done : (takeTurn s).2.done = s.done := by
  unfold takeTurn; split <;> rfl
@[simp] theorem takeTurn_ovr : (takeTurn s).2.ovr = s.ovr := by
  unfold takeTurn; split <;> rfl
@[simp] theorem takeTurn_err : (takeTurn s).2.err = s.err := by
  unfold takeTurn; split <;> rfl
@[simp] theorem takeTurn_keyv : (takeTurn s).2.keyv = s.keyv := by
  unfold takeTurn; split <;> rfl
@[simp] theorem takeTurn_mopen : (takeTurn s).2.mopen = s.mopen := by
  unfold takeTurn; split <;> rfl
@[simp] theorem takeTurn_mdir : (takeTurn s).2.mdir = s.mdir := by
  unfold takeTurn; split <;> rfl
@[simp] theorem takeTurn_mmode : (takeTurn s).2.mmode = s.mmode := by
  unfold takeTurn; split <;> rfl
@[simp] theorem takeTurn_ivpend : (takeTurn s).2.ivpend = s.ivpend := by
  unfold takeTurn; split <;> rfl
@[simp] theorem takeTurn_outv : (takeTurn s).2.outv = s.outv := by
  unfold takeTurn; split <;> rfl
@[simp] theorem takeTurn_padlen : (takeTurn s).2.padlen = s.padlen := by
  unfold takeTurn; split <;> rfl
@[simp] theorem takeTurn_mk : (takeTurn s).2.mk = s.mk := by
  unfold takeTurn; split <;> rfl
@[simp] theorem takeTurn_din : (takeTurn s).2.din = s.din := by
  unfold takeTurn; split <;> rfl
@[simp] theorem takeTurn_dout : (takeTurn s).2.dout = s.dout := by
  unfold takeTurn; split <;> rfl
@[simp] theorem takeTurn_rk : (takeTurn s).2.rk = s.rk := by
  unfold takeTurn; split <;> rfl
@[simp] theorem takeTurn_chain : (takeTurn s).2.chain = s.chain := by
  unfold takeTurn; split <;> rfl
@[simp] theorem takeTurn_pend : (takeTurn s).2.pend = s.pend := by
  unfold takeTurn; split <;> rfl
@[simp] theorem takeTurn_entropy : (takeTurn s).2.env.entropy = s.env.entropy := by
  unfold takeTurn; split <;> rfl
@[simp] theorem takeTurn_hostProg : (takeTurn s).2.env.hostProg = s.env.hostProg := by
  unfold takeTurn; split <;> rfl
@[simp] theorem takeTurn_hostReads : (takeTurn s).2.env.hostReads = s.env.hostReads := by
  unfold takeTurn; split <;> rfl

end Sys2Proof.Machine
end

