-- ==== Sys2Proof/Laws/Exec.lean ====
section
/-! SUPPORT. For each meaning, every way it can answer a next state (the guards included), and how
PadCheck answers. Later proofs cite these and unfold no meaning. -/

namespace Sys2Proof.Machine

variable {s t : State}

/-- R162: PadCheck answers the last byte, when it is in 1..16 and heads that many equal bytes. -/
theorem padCheck_eq_some_iff (p : Block) (n : Nat) :
    padCheck p = some n ↔
      n = p[15].toNat ∧ 1 ≤ n ∧ n ≤ 16 ∧ ∀ (j : Nat) (_ : j < 16), 16 - n ≤ j → p[j] = p[15] := by
  unfold padCheck
  simp only
  split
  · rename_i h
    constructor
    · intro hc; cases hc
    · rintro ⟨rfl, h1, h2, -⟩; omega
  · rename_i h
    split
    · rename_i ha
      constructor
      · intro hc; cases hc
      · rintro ⟨rfl, -, -, hall⟩
        obtain ⟨j, -, hj⟩ := List.any_eq_true.mp ha
        have := hall j.val j.isLt
        simp only [Bool.and_eq_true, decide_eq_true_eq, bne_iff_ne, ne_eq] at hj
        exact absurd (this hj.1) hj.2
    · rename_i ha
      constructor
      · intro hc
        cases hc
        refine ⟨rfl, by omega, by omega, fun j hj hge => ?_⟩
        by_contra hne
        exact ha (List.any_eq_true.mpr ⟨⟨j, hj⟩, List.mem_finRange _, by simp [hge, hne]⟩)
      · rintro ⟨rfl, -⟩; rfl

/-- The pad length of a good block is in 1..16. -/
theorem padCheck_range {p : Block} {n : Nat} (h : padCheck p = some n) : 1 ≤ n ∧ n ≤ 16 :=
  let ⟨_, h1, h2, _⟩ := (padCheck_eq_some_iff p n).mp h
  ⟨h1, h2⟩

theorem drawIV_cases (s : State) :
    (s.env.entropy = none ∧ drawIV s = none) ∨
    ∃ iv, s.env.entropy = some iv ∧ drawIV s = some (iv, offerEntropy none s) := by
  unfold drawIV
  cases h : s.env.entropy with
  | none => exact .inl ⟨rfl, rfl⟩
  | some iv => exact .inr ⟨iv, rfl, rfl⟩

theorem execKeyexp_cases (h : execKeyexp s = .next t) :
    (s.mopen = true ∧ t = raiseError .sequence s) ∨
    (s.mopen = false ∧
      t = complete (setPadlen 0 (noOutput (installKeys (keyExpand s.mk) s)))) := by
  unfold execKeyexp at h
  cases hm : s.mopen <;> simp [hm] at h <;> simp [h]

/-- What ENCB and DECB can answer, for their block `b`. -/
theorem singleBlock_cases {b : Block} (h : singleBlock b s = .next t) :
    (s.keyv = false ∧ t = raiseError .noKey s) ∨
    (s.keyv = true ∧ t = complete (setPadlen 0 (emitBlock b s))) := by
  unfold singleBlock at h
  cases hk : s.keyv <;> simp [hk] at h <;> simp [h]

/-- What the checks of START can answer. -/
theorem checkStart_cases {o : State} (h : checkStart o s = .next t) :
    (s.mopen = true ∧ t = raiseError .sequence s) ∨
    (s.mopen = false ∧ s.keyv = false ∧ t = raiseError .noKey s) ∨
    (s.mopen = false ∧ s.keyv = true ∧ t = complete (setPadlen 0 o)) := by
  unfold checkStart at h
  cases hm : s.mopen <;> cases hk : s.keyv <;> simp [hm, hk] at h <;> simp [h]

theorem execStart_cases {d : Dir} {m : Mode} (h : execStart d m s = .next t) :
    (d = .encrypt ∧ m = .cbc ∧ s.env.entropy = none ∧ t = s) ∨
    (s.mopen = true ∧ t = raiseError .sequence s) ∨
    (s.mopen = false ∧ s.keyv = false ∧ t = raiseError .noKey s) ∨
    (s.mopen = false ∧ s.keyv = true ∧
      ((m = .ecb ∧ t = complete (setPadlen 0 (noOutput (openMessage d .ecb false Block.zero s)))) ∨
       (d = .decrypt ∧ m = .cbc ∧
          t = complete (setPadlen 0 (noOutput (openMessage .decrypt .cbc true Block.zero s)))) ∨
       (d = .encrypt ∧ m = .cbc ∧ ∃ iv, s.env.entropy = some iv ∧
          t = complete (setPadlen 0 (emitBlock iv
            (openMessage .encrypt .cbc false iv (offerEntropy none s))))))) := by
  cases d <;> cases m <;> simp only [execStart, startEcb, startCbcDecrypt, startCbcEncrypt] at h
  · obtain h | h | ⟨ho, hk, h⟩ := checkStart_cases h
    · exact .inr (.inl h)
    · exact .inr (.inr (.inl h))
    · exact .inr (.inr (.inr ⟨ho, hk, .inl ⟨rfl, h⟩⟩))
  · obtain ⟨he, hd⟩ | ⟨iv, he, hd⟩ := drawIV_cases s <;> simp only [hd] at h
    · cases h; exact .inl ⟨rfl, rfl, he, rfl⟩
    · obtain h | h | ⟨ho, hk, h⟩ := checkStart_cases h
      · exact .inr (.inl h)
      · exact .inr (.inr (.inl h))
      · exact .inr (.inr (.inr ⟨ho, hk, .inr (.inr ⟨rfl, rfl, iv, he, h⟩)⟩))
  · obtain h | h | ⟨ho, hk, h⟩ := checkStart_cases h
    · exact .inr (.inl h)
    · exact .inr (.inr (.inl h))
    · exact .inr (.inr (.inr ⟨ho, hk, .inl ⟨rfl, h⟩⟩))
  · obtain h | h | ⟨ho, hk, h⟩ := checkStart_cases h
    · exact .inr (.inl h)
    · exact .inr (.inr (.inl h))
    · exact .inr (.inr (.inr ⟨ho, hk, .inr (.inl ⟨rfl, rfl, h⟩)⟩))

theorem execBlock_cases (h : execBlock s = .next t) :
    (s.mopen = false ∧ t = raiseError .sequence s) ∨
    (s.mopen = true ∧ s.mdir = .decrypt ∧ s.mmode = .cbc ∧ s.ivpend = true ∧
      t = complete (setPadlen 0 (noOutput (clearIvpend (setChain s.din s))))) ∨
    (s.mopen = true ∧ s.ivpend = false ∧ ∃ out chain,
      t = complete (setPadlen 0 (emitBlock out (setChain chain s))) ∧
      ((s.mdir = .encrypt ∧ s.mmode = .ecb ∧ out = encBlock s.rk s.din ∧ chain = s.chain) ∨
       (s.mdir = .encrypt ∧ s.mmode = .cbc ∧ out = encBlock s.rk (xorBlock s.din s.chain) ∧
          chain = out) ∨
       (s.mdir = .decrypt ∧ s.mmode = .ecb ∧ out = decBlock s.rk s.din ∧ chain = s.chain) ∨
       (s.mdir = .decrypt ∧ s.mmode = .cbc ∧ out = xorBlock (decBlock s.rk s.din) s.chain ∧
          chain = s.din))) := by
  unfold execBlock at h
  cases ho : s.mopen <;> simp [ho] at h
  · simp [h]
  · cases hd : s.mdir <;> cases hm : s.mmode <;> cases hp : s.ivpend <;>
      simp [hd, hm, hp, blockDone, blockLoadIV] at h
    · exact .inr (.inr ⟨rfl, rfl, _, _, h.symm, .inl ⟨rfl, rfl, rfl, rfl⟩⟩)
    · exact .inr (.inr ⟨rfl, rfl, _, _, h.symm, .inr (.inl ⟨rfl, rfl, rfl, rfl⟩)⟩)
    · exact .inr (.inr ⟨rfl, rfl, _, _, h.symm, .inr (.inr (.inl ⟨rfl, rfl, rfl, rfl⟩))⟩)
    · exact .inr (.inr ⟨rfl, rfl, _, _, h.symm, .inr (.inr (.inr ⟨rfl, rfl, rfl, rfl⟩))⟩)
    · exact .inr (.inl ⟨rfl, rfl, rfl, rfl, h.symm⟩)

theorem finalDec_cases (h : finalDec s = .next t) :
    (s.ivpend = true ∧ t = raiseError .truncatedCiphertext (zeroOutput (closeMessage s))) ∨
    (s.ivpend = false ∧ padCheck (chained (decBlock s.rk s.din) s) = none ∧
      t = raiseError .invalidPadding (zeroOutput (closeMessage s))) ∨
    (s.ivpend = false ∧ ∃ n, padCheck (chained (decBlock s.rk s.din) s) = some n ∧
      t = complete (setPadlen n
        (emitBlock (chained (decBlock s.rk s.din) s) (closeMessage s)))) := by
  unfold finalDec at h
  cases hp : s.ivpend <;> simp [hp] at h
  · cases hc : padCheck (chained (decBlock s.rk s.din) s) <;> simp [hc] at h <;> simp [h]
  · simp [h]

theorem execFinal_cases {nb : Nat} (h : execFinal nb s = .next t) :
    (s.mopen = false ∧ t = raiseError .sequence s) ∨
    (s.mopen = true ∧ s.mdir = .decrypt ∧ nb ≠ 0 ∧ t = raiseError .illegalCommand s) ∨
    (s.mopen = true ∧ s.mdir = .encrypt ∧ t = complete (closeMessage (setPadlen 0
      (emitBlock (encBlock s.rk (chained (finalChunk nb s.din) s)) s)))) ∨
    (s.mopen = true ∧ s.mdir = .decrypt ∧ nb = 0 ∧ finalDec s = .next t) := by
  unfold execFinal at h
  cases ho : s.mopen <;> simp [ho] at h
  · simp [h]
  · cases hd : s.mdir <;> simp [hd] at h
    · simp [finalEnc] at h
      simp [h]
    · by_cases hn : nb = 0 <;> simp [hn] at h <;> simp [h, hn]

theorem execAbort_cases (h : execAbort s = .next t) :
    t = complete (zeroOutput (closeMessage s)) := by
  simp [execAbort] at h
  exact h.symm

/-- Everything the completion step can answer as a next state (R281). -/
theorem coreStep_cases (h : coreStep s = .next t) :
    (s.busy = false ∧ t = s) ∨
    (s.busy = true ∧ (∃ e, decode s.pend = .error e) ∧ t = raiseError .illegalCommand s) ∨
    (s.busy = true ∧ ∃ i, decode s.pend = .ok i ∧ exec i s = .next t) := by
  unfold coreStep at h
  cases hb : s.busy <;> simp [hb] at h
  · simp [h]
  · cases hd : decode s.pend <;> simp [hd] at h <;> simp [h]

/-- Every way a command can answer a next state: it waits for its IV, it is rejected, or it ends with
BUSY cleared and DONE set. -/
theorem exec_waits_rejects_or_ends {i : Instr} (h : exec i s = .next t) :
    (i = .start .encrypt .cbc ∧ s.env.entropy = none ∧ t = s) ∨
    (∃ c, c.rejected = true ∧ t = raiseError c s) ∨
    (t.busy = false ∧ t.done = true ∧ t.err.rejected = false) := by
  cases i <;> simp only [exec] at h
  case keyexp =>
    obtain ⟨-, rfl⟩ | ⟨-, rfl⟩ := execKeyexp_cases h
    · exact .inr (.inl ⟨_, rfl, rfl⟩)
    · exact .inr (.inr ⟨rfl, rfl, rfl⟩)
  case encb =>
    obtain ⟨-, rfl⟩ | ⟨-, rfl⟩ := singleBlock_cases h
    · exact .inr (.inl ⟨_, rfl, rfl⟩)
    · exact .inr (.inr ⟨rfl, rfl, rfl⟩)
  case decb =>
    obtain ⟨-, rfl⟩ | ⟨-, rfl⟩ := singleBlock_cases h
    · exact .inr (.inl ⟨_, rfl, rfl⟩)
    · exact .inr (.inr ⟨rfl, rfl, rfl⟩)
  case start d m =>
    obtain ⟨rfl, rfl, he, rfl⟩ | ⟨-, rfl⟩ | ⟨-, -, rfl⟩ | ⟨-, -, ⟨-, rfl⟩ | ⟨-, -, rfl⟩ |
      ⟨-, -, iv, -, rfl⟩⟩ := execStart_cases h
    · exact .inl ⟨rfl, he, rfl⟩
    · exact .inr (.inl ⟨_, rfl, rfl⟩)
    · exact .inr (.inl ⟨_, rfl, rfl⟩)
    · exact .inr (.inr ⟨rfl, rfl, rfl⟩)
    · exact .inr (.inr ⟨rfl, rfl, rfl⟩)
    · exact .inr (.inr ⟨rfl, rfl, rfl⟩)
  case block =>
    obtain ⟨-, rfl⟩ | ⟨-, -, -, -, rfl⟩ | ⟨-, -, out, ch, rfl, -⟩ := execBlock_cases h
    · exact .inr (.inl ⟨_, rfl, rfl⟩)
    · exact .inr (.inr ⟨rfl, rfl, rfl⟩)
    · exact .inr (.inr ⟨rfl, rfl, rfl⟩)
  case final nb =>
    obtain ⟨-, rfl⟩ | ⟨-, -, -, rfl⟩ | ⟨-, -, rfl⟩ | ⟨-, -, -, h⟩ := execFinal_cases h
    · exact .inr (.inl ⟨_, rfl, rfl⟩)
    · exact .inr (.inl ⟨_, rfl, rfl⟩)
    · exact .inr (.inr ⟨rfl, rfl, rfl⟩)
    · obtain ⟨-, rfl⟩ | ⟨-, -, rfl⟩ | ⟨-, n, -, rfl⟩ := finalDec_cases h
      · exact .inr (.inr ⟨rfl, rfl, rfl⟩)
      · exact .inr (.inr ⟨rfl, rfl, rfl⟩)
      · exact .inr (.inr ⟨rfl, rfl, rfl⟩)
  case abort =>
    obtain rfl := execAbort_cases h
    exact .inr (.inr ⟨rfl, rfl, rfl⟩)

/-- No command reads or writes what belongs to the host: CTRL.IE, OVR, MK, DIN, PEND, the host's
program and reads and the schedule. -/
theorem exec_keeps_host_state {i : Instr} (h : exec i s = .next t) :
    t.ie = s.ie ∧ t.ovr = s.ovr ∧ t.mk = s.mk ∧ t.din = s.din ∧ t.pend = s.pend ∧
      t.env = { s.env with entropy := t.env.entropy } := by
  cases i <;> simp only [exec] at h
  case keyexp => obtain ⟨-, rfl⟩ | ⟨-, rfl⟩ := execKeyexp_cases h <;> simp
  case encb => obtain ⟨-, rfl⟩ | ⟨-, rfl⟩ := singleBlock_cases h <;> simp
  case decb => obtain ⟨-, rfl⟩ | ⟨-, rfl⟩ := singleBlock_cases h <;> simp
  case start d m =>
    obtain ⟨-, -, -, rfl⟩ | ⟨-, rfl⟩ | ⟨-, -, rfl⟩ | ⟨-, -, ⟨-, rfl⟩ | ⟨-, -, rfl⟩ |
      ⟨-, -, iv, -, rfl⟩⟩ := execStart_cases h <;> simp
  case block =>
    obtain ⟨-, rfl⟩ | ⟨-, -, -, -, rfl⟩ | ⟨-, -, out, ch, rfl, -⟩ := execBlock_cases h <;> simp
  case final nb =>
    obtain ⟨-, rfl⟩ | ⟨-, -, -, rfl⟩ | ⟨-, -, rfl⟩ | ⟨-, -, -, h⟩ := execFinal_cases h
    · simp
    · simp
    · simp
    · obtain ⟨-, rfl⟩ | ⟨-, -, rfl⟩ | ⟨-, n, -, rfl⟩ := finalDec_cases h <;> simp
  case abort => obtain rfl := execAbort_cases h; simp

end Sys2Proof.Machine
end

