-- ==== Sys2Proof/Laws/Step.lean ====
section
/-! SUPPORT. Everything a host access, a host step and a step of the machine can answer as a next
state, guards included. -/

namespace Sys2Proof.Machine

variable {s t : State}

/-- Every effect of a host write of a register (R66, R67). -/
theorem writeReg_cases (r : Reg) (v : Word) (s : State) :
    ((r = .param ∨ ∃ k, r = .dout k) ∧ writeReg r v s = s) ∨
    (r = .ctrl ∧ v.getLsbD 1 = true ∧ writeReg r v s = resetCore s) ∨
    (r = .ctrl ∧ v.getLsbD 1 = false ∧ writeReg r v s = setIe (v.getLsbD 0) s) ∨
    (r = .status ∧ writeReg r v s = clearStatus v s) ∨
    (s.busy = true ∧ (r = .cmd ∨ (∃ k, r = .mk k) ∨ ∃ k, r = .din k) ∧
      writeReg r v s = setOvr s) ∨
    (s.busy = false ∧ r = .cmd ∧ writeReg r v s = acceptCommand v s) ∨
    (s.busy = false ∧ ∃ k, r = .mk k ∧
      writeReg r v s = setMk (setWordOfBlock s.mk k v) s) ∨
    (s.busy = false ∧ ∃ k, r = .din k ∧
      writeReg r v s = setDin (setWordOfBlock s.din k v) s) := by
  cases r with
  | param => simp [writeReg]
  | ctrl =>
    cases h : v.getLsbD 1
    · exact .inr (.inr (.inl ⟨rfl, rfl, if_neg (Bool.eq_false_iff.mp h)⟩))
    · exact .inr (.inl ⟨rfl, rfl, if_pos h⟩)
  | status => simp [writeReg]
  | cmd => cases h : s.busy <;> simp [writeReg, startCommand, h]
  | mk k => cases h : s.busy <;> simp [writeReg, writeMk, h]
  | din k => cases h : s.busy <;> simp [writeReg, writeDin, h]
  | dout k => simp [writeReg]

/-- Everything the host's turn can answer as a next state: nothing to do or still waiting, a wait that
is over, a write, or a read. -/
theorem hostStep_cases (h : hostStep s = .next t) :
    t = s ∨
    (∃ op rest, s.env.hostProg = op :: rest ∧ t = hostGoesOn rest s ∧
      ((∃ b w, op = .poll b w) ∨ op = .waitIrq)) ∨
    (∃ a v rest r, s.env.hostProg = .wr a v :: rest ∧ regAt a = some r ∧
      t = writeReg r v (hostGoesOn rest s)) ∨
    (∃ a rest r, s.env.hostProg = .rd a :: rest ∧ regAt a = some r ∧
      t = hostRead a r (hostGoesOn rest s)) := by
  unfold hostStep at h
  split at h
  · cases h; exact .inl rfl
  · rename_i a v rest hp
    cases hr : regAt a <;> simp [hr] at h
    exact .inr (.inr (.inl ⟨a, v, rest, _, hp, hr, h.symm⟩))
  · rename_i a rest hp
    cases hr : regAt a <;> simp [hr] at h
    exact .inr (.inr (.inr ⟨a, rest, _, hp, hr, h.symm⟩))
  · rename_i b w rest hp
    split at h <;> cases h
    · exact .inr (.inl ⟨_, rest, hp, rfl, .inl ⟨b, w, rfl⟩⟩)
    · exact .inl rfl
  · rename_i rest hp
    split at h <;> cases h
    · exact .inr (.inl ⟨_, rest, hp, rfl, .inr rfl⟩)
    · exact .inl rfl

/-- Everything a step can answer as a next state: the step of the agent whose turn it is. -/
theorem step_cases (h : step s = .next t) :
    ((takeTurn s).1 = .core ∧ coreStep (takeTurn s).2 = .next t) ∨
    ((takeTurn s).1 = .host ∧ hostStep (takeTurn s).2 = .next t) ∨
    (∃ o, (takeTurn s).1 = .entropy o ∧ t = offerEntropy o (takeTurn s).2) ∨
    ((takeTurn s).1 = .reset ∧ t = resetCore (takeTurn s).2) := by
  unfold step at h
  cases ht : (takeTurn s).1 <;> simp [ht, agentStep] at h <;> simp [h]

/-- Taking the turn changes the schedule alone. -/
theorem takeTurn_eq (s : State) : ∃ ts, (takeTurn s).2 = setTurns ts s := by
  unfold takeTurn
  split
  · exact ⟨_, rfl⟩
  · exact ⟨s.env.turns, rfl⟩

/-- A well-formed access is one that reaches a register (R61, R63). -/
theorem regAt_isSome (a : Access) : (regAt a).isSome = a.wellFormed := by
  obtain ⟨w, off⟩ := a
  cases w with
  | byte => rfl
  | half => rfl
  | word => revert off; decide

end Sys2Proof.Machine
end

