-- ==== Sys2Proof/Laws/Host.lean ====
section
/-! SUPPORT. What the pseudo-instructions of the host procedures do on an idle core
(spec/30_encoding.md R92). -/

namespace Sys2Proof.Machine

variable {s t : State}

/-- The four words of a block, written one after the other, leave that block. -/
theorem setWordOfBlock_all (b c : Block) :
    setWordOfBlock (setWordOfBlock (setWordOfBlock (setWordOfBlock c 0 (wordOfBlock b 0)) 1
      (wordOfBlock b 1)) 2 (wordOfBlock b 2)) 3 (wordOfBlock b 3) = b := by
  apply Vector.ext
  intro i hi
  simp only [setWordOfBlock_getElem]
  interval_cases i <;> simp [byteOfWord_wordOfBlock]

/-- R92: `LDBLK b` on an idle core. -/
theorem loadBlock_idle (b : Block) (h : s.busy = false) : loadBlock b s = setDin b s := by
  simp only [loadBlock, writeReg, writeDin, h, setDin_din, Bool.false_eq_true, if_false, setDin_busy]
  simp only [setDin, setWordOfBlock_all]

/-- R92: `LDKEY k` on an idle core. -/
theorem loadKey_idle (k : Block) (h : s.busy = false) : loadKey k s = setMk k s := by
  simp only [loadKey, writeReg, writeMk, h, setMk_mk, Bool.false_eq_true, if_false, setMk_busy]
  simp only [setMk, setWordOfBlock_all]

/-- R92: `RDBLK` reads DOUT. -/
@[simp] theorem readBlock_eq (s : State) : readBlock s = s.dout := setWordOfBlock_all _ _

/-- R92: `DO` of a command whose meaning ends it without a rejection. -/
theorem doCommand_ok {i : Instr} (hd : decode (encode i) = .ok i) (hb : s.busy = false)
    (h : exec i (acceptCommand (encode i) s) = .next t) (ht : t.busy = false)
    (hr : t.err.rejected = false) : doCommand i s = .ok t := by
  have e : writeReg .cmd (encode i) s = acceptCommand (encode i) s := by
    simp [writeReg, startCommand, hb]
  unfold doCommand waitIdle
  rw [e]
  simp [coreStep, hd, h, ht, hr]

/-- R224: Construct and then Encrypt, where each succeeds. -/
theorem encryptUnderKey_ok {keyText : List Char} {p : List Byte} {mode : Mode} {c : List Char}
    {u : State} (h : construct keyText s = .ok u) (hc : encrypt p mode u = .ok (c, t)) :
    encryptUnderKey keyText p mode s = .ok (c, t) := by
  simp only [encryptUnderKey, h, bind, Except.bind, hc]

/-- R224: Decrypt of what Encrypt gave, where each succeeds. -/
theorem decryptOfEncrypt_ok {keyText : List Char} {p q : List Byte} {mode : Mode} {c : List Char}
    {u : State} (h : encryptUnderKey keyText p mode s = .ok (c, u))
    (hd : decrypt c mode u = .ok (q, t)) : decryptOfEncrypt keyText p mode s = .ok (q, t) := by
  simp only [decryptOfEncrypt, h, bind, Except.bind, hd]

end Sys2Proof.Machine
end

