-- ==== Sys2Proof/Laws/Modes.lean ====
section
/-! SUPPORT. Byte strings as blocks and back, and the blocks of a padded plaintext
(spec/42_modes_padding.md R160, R164, R165). -/

namespace Sys2Proof.Machine

/-- Exclusive or with a block undoes itself. -/
@[simp] theorem xorBlock_xorBlock (a b : Block) : xorBlock (xorBlock a b) b = a := by
  apply Vector.ext
  intro i hi
  rw [xorBlock_getElem _ _ _ hi, xorBlock_getElem _ _ _ hi, BitVec.xor_assoc]
  simp

@[simp] theorem bytesOfBlock_length (b : Block) : (bytesOfBlock b).length = 16 := by
  simp [bytesOfBlock]

@[simp] theorem fromBlocks_cons (b : Block) (bs : List Block) :
    fromBlocks (b :: bs) = bytesOfBlock b ++ fromBlocks bs := by
  simp [fromBlocks]

@[simp] theorem fromBlocks_append (bs cs : List Block) :
    fromBlocks (bs ++ cs) = fromBlocks bs ++ fromBlocks cs := by
  simp [fromBlocks]

@[simp] theorem fromBlocks_length (bs : List Block) : (fromBlocks bs).length = 16 * bs.length := by
  induction bs with
  | nil => rfl
  | cons b bs ih => simp [ih]; omega

@[simp] theorem toBlocks_length (n : Nat) (l : List Byte) : (toBlocks n l).length = n := by
  induction n generalizing l <;> simp [toBlocks, *]

/-- The bytes of the first block of a string that has one. -/
theorem bytesOfBlock_blockOfBytes (l : List Byte) (h : 16 ≤ l.length) :
    bytesOfBlock (blockOfBytes l) = l.take 16 := by
  apply List.ext_getElem
  · simp; omega
  · intro i h1 h2
    simp at h1
    simp [bytesOfBlock, blockOfBytes, List.getD_eq_getElem?_getD,
      List.getElem?_eq_getElem (show i < l.length by omega)]

@[simp] theorem blockOfBytes_append (b : Block) (l : List Byte) :
    blockOfBytes (bytesOfBlock b ++ l) = b := by
  apply Vector.ext
  intro i hi
  simp [blockOfBytes, bytesOfBlock, List.getD_eq_getElem?_getD, List.getElem?_append]

/-- A whole number of blocks, cut up and joined. -/
theorem fromBlocks_toBlocks (n : Nat) (l : List Byte) (h : l.length = 16 * n) :
    fromBlocks (toBlocks n l) = l := by
  induction n generalizing l with
  | zero => simp at h; subst h; rfl
  | succ n ih =>
    rw [toBlocks, fromBlocks_cons, ih _ (by simp; omega), bytesOfBlock_blockOfBytes _ (by omega),
      List.take_append_drop]

/-- Blocks, joined and cut up. -/
@[simp] theorem toBlocks_fromBlocks (bs : List Block) : toBlocks bs.length (fromBlocks bs) = bs := by
  induction bs with
  | nil => rfl
  | cons b bs ih =>
    rw [List.length_cons, toBlocks, fromBlocks_cons, blockOfBytes_append,
      List.drop_left' (bytesOfBlock_length b), ih]

/-- The last block apart. -/
theorem toBlocks_succ (n : Nat) (l : List Byte) :
    toBlocks (n + 1) l = toBlocks n l ++ [blockOfBytes (l.drop (16 * n))] := by
  induction n generalizing l with
  | zero => rfl
  | succ n ih =>
    rw [toBlocks, ih]
    simp [toBlocks, Nat.mul_add, Nat.add_comm]

/-- What follows the blocks does not matter. -/
theorem toBlocks_append (n : Nat) (l m : List Byte) (h : 16 * n ≤ l.length) :
    toBlocks n (l ++ m) = toBlocks n l := by
  induction n generalizing l with
  | zero => rfl
  | succ n ih =>
    rw [toBlocks, toBlocks, List.drop_append_of_le_length (by omega), ih _ (by simp; omega)]
    congr 1
    apply Vector.ext
    intro i hi
    simp [blockOfBytes, List.getD_eq_getElem?_getD,
      List.getElem?_append_left (show i < l.length by omega)]

/-- R213: the blocks of a padded plaintext are its full blocks and the chunk FINAL pads. -/
theorem paddedBlocks_eq (p : List Byte) :
    paddedBlocks p = toBlocks (p.length / 16) p ++
      [finalChunk (p.length % 16) (blockOfBytes (p.drop (16 * (p.length / 16))))] := by
  have hl : (pad p).length / 16 = p.length / 16 + 1 := by simp [pad]; omega
  rw [paddedBlocks, hl, toBlocks_succ]
  congr 1
  · exact toBlocks_append _ _ _ (by omega)
  · congr 1
    apply Vector.ext
    intro i hi
    have hlt : p.length % 16 < 16 := Nat.mod_lt _ (by decide)
    have hdm := Nat.div_add_mod p.length 16
    generalize p.length / 16 = m at *
    generalize hr : p.length % 16 = r at *
    simp only [blockOfBytes, finalChunk, Vector.getElem_ofFn, List.getD_eq_getElem?_getD,
      List.getElem?_drop, pad, hr]
    rw [List.getElem?_append]
    by_cases h : i < r
    · rw [if_pos (by omega), if_pos h]
    · rw [if_neg (by omega), if_neg h, List.getElem?_replicate, if_pos (by omega)]
      rfl

end Sys2Proof.Machine
end

