-- ==== Sys2Proof/Laws/PerInstr.lean ====
section
/-! SUPPORT. A statement about each command as syntax: its word matches its own row of the table
(spec/30_encoding.md R86). One lemma per constructor. -/

namespace Sys2Proof.Laws.EncodesItsRow

/-- R86: the word of a well-formed command matches the command's row. -/
def Statement (i : Instr) : Prop := i.wellFormed = true → (opcodeRow i).matchesWord (encode i) = true

theorem keyexp : Statement .keyexp := fun _ => by decide
theorem encb : Statement .encb := fun _ => by decide
theorem decb : Statement .decb := fun _ => by decide
theorem start (dir : Dir) (mode : Mode) : Statement (.start dir mode) := fun _ => by
  cases dir <;> cases mode <;> decide
theorem block : Statement .block := fun _ => by decide
theorem final (nb : Nat) : Statement (.final nb) := fun h => by
  have h : nb < 16 := of_decide_eq_true h
  interval_cases nb <;> decide
theorem abort : Statement .abort := fun _ => by decide

end Sys2Proof.Laws.EncodesItsRow
end

