-- ==== Sys2Proof/Machine/HostProgram.lean ====
section
/-! DEFINITION. The host syntax: the assembler's commands (spec/30_encoding.md R90) and the
pseudo-instructions with their exact expansions (R92). -/

namespace Sys2Proof.Machine

/-! ### Host operations -/

/-- R91: `WR off, v`, an aligned 32-bit write. -/
def wr (off : BitVec 6) (v : Word) : HostOp := .wr ⟨.word, off⟩ v

/-- R91: `RD off -> name`. -/
def rd (off : BitVec 6) : HostOp := .rd ⟨.word, off⟩

/-- R92: `CMD <command>`. -/
def cmdOps (i : Instr) : List HostOp := [wr 0x0C (encode i)]

/-- R92: `WAIT`: repeat `RD 0x08 -> s` until `s[0] = 0`. -/
def waitOps : List HostOp := [.poll 0 false]

/-- R92: `LDKEY k`. -/
def ldkeyOps (k : Block) : List HostOp :=
  [wr 0x10 (wordOfBlock k 0), wr 0x14 (wordOfBlock k 1), wr 0x18 (wordOfBlock k 2),
   wr 0x1C (wordOfBlock k 3)]

/-- R92: `LDBLK b`. -/
def ldblkOps (b : Block) : List HostOp :=
  [wr 0x20 (wordOfBlock b 0), wr 0x24 (wordOfBlock b 1), wr 0x28 (wordOfBlock b 2),
   wr 0x2C (wordOfBlock b 3)]

/-- R92: `RDBLK -> name`. -/
def rdblkOps : List HostOp := [rd 0x30, rd 0x34, rd 0x38, rd 0x3C]

/-- R92: `CLRDONE`. -/
def clrdoneOps : List HostOp := [wr 0x08 0x00000002#32]

/-- R92: `DO <command>`: `CMD <command>; WAIT`. -/
def doOps (i : Instr) : List HostOp := cmdOps i ++ waitOps

/-! ### The assembler (R90) -/

/-- A character without its case: letters in upper case. "Case does not matter" (R90). -/
def upper (c : Char) : Char := c.toUpper

/-- The text up to the first separator, and what follows it. -/
def breakAt (sep : Char) : List Char → List Char × Option (List Char)
  | [] => ([], none)
  | c :: cs =>
    if c = sep then ([], some cs) else (c :: (breakAt sep cs).1, (breakAt sep cs).2)

/-- The text without leading blanks. -/
def dropBlanks : List Char → List Char
  | [] => []
  | c :: cs => if c = ' ' then dropBlanks cs else c :: cs

/-- The text without leading and trailing blanks. -/
def trim (cs : List Char) : List Char := (dropBlanks (dropBlanks cs).reverse).reverse

/-- R90: an operand `enc` or `dec`. -/
def parseDir (cs : List Char) : Option Dir :=
  if cs = ['E', 'N', 'C'] then some .encrypt
  else if cs = ['D', 'E', 'C'] then some .decrypt
  else none

/-- R90: an operand `ecb` or `cbc`. -/
def parseMode (cs : List Char) : Option Mode :=
  if cs = ['E', 'C', 'B'] then some .ecb
  else if cs = ['C', 'B', 'C'] then some .cbc
  else none

/-- The value of a decimal digit. -/
def digitValue (c : Char) : Option Nat :=
  if '0' ≤ c ∧ c ≤ '9' then some (c.toNat - '0'.toNat) else none

/-- The value of decimal digits read after `acc`. -/
def decimalFrom (acc : Nat) : List Char → Option Nat
  | [] => some acc
  | c :: cs =>
    match digitValue c with
    | some d => decimalFrom (10 * acc + d) cs
    | none => none

/-- R90: an operand `n`, decimal 0..15. -/
def parseNb (cs : List Char) : Option Nat :=
  match cs with
  | [] => none
  | c :: ds =>
    match decimalFrom 0 (c :: ds) with
    | some n => if n < 16 then some n else none
    | none => none

/-- R90: the commands without an operand. -/
def parsePlain (m : List Char) : Option Instr :=
  if m = ['K', 'E', 'Y', 'E', 'X', 'P'] then some .keyexp
  else if m = ['E', 'N', 'C', 'B'] then some .encb
  else if m = ['D', 'E', 'C', 'B'] then some .decb
  else if m = ['B', 'L', 'O', 'C', 'K'] then some .block
  else if m = ['A', 'B', 'O', 'R', 'T'] then some .abort
  else if m = ['F', 'I', 'N', 'A', 'L'] then some (.final 0)
  else none

/-- R90: `START dir, mode`, its operands separated by a comma. -/
def parseStart (operands : List Char) : Option Instr :=
  match breakAt ',' operands with
  | (d, some m) =>
    match parseDir (trim d), parseMode (trim m) with
    | some dir, some mode => some (.start dir mode)
    | _, _ => none
  | (_, none) => none

/-- R90: a command written as its mnemonic, then its operands. -/
def assemble (line : List Char) : Option Instr :=
  match breakAt ' ' (trim (line.map upper)) with
  | (m, none) => parsePlain m
  | (m, some operands) =>
    if m = ['S', 'T', 'A', 'R', 'T'] then parseStart operands
    else if m = ['F', 'I', 'N', 'A', 'L'] then (parseNb (trim operands)).map .final
    else none

end Sys2Proof.Machine
end

