-- ==== Sys2Proof/Tests/Slice0.lean ====
section
/-! SUPPORT. Tests of the model's own, with expected values from spec/95_test_vectors.md and the rules
named, and for each obligation with hypotheses a witness that meets them. -/

namespace Sys2Proof.Tests

open Sys2Proof Sys2Proof.Machine

/-! ### Helpers -/

/-- The outcome is a next state with the property. -/
def nextWith (o : Host.Outcome State Fault Refusal) (p : State → Bool) : Bool :=
  match o with
  | .next t => p t
  | .fault _ => false
  | .refused _ => false

/-- The outcome is a next state with this STATUS word and this DOUT. -/
def leaves (status : Word) (dout : Block) (o : Host.Outcome State Fault Refusal) : Bool :=
  nextWith o fun t => statusWord t == status && t.dout == dout

/-- The outcome is a fault. -/
def faults (o : Host.Outcome State Fault Refusal) : Bool :=
  match o with
  | .next _ => false
  | .fault _ => true
  | .refused _ => false

/-- The outcome is this refusal. -/
def refuses (r : Refusal) (o : Host.Outcome State Fault Refusal) : Bool :=
  match o with
  | .next _ => false
  | .fault _ => false
  | .refused q => q == r

/-- 000102..0f, the block `seq` of spec/95_test_vectors.md. -/
def seq : Block := Block.ofHex 0x000102030405060708090a0b0c0d0e0f

/-- 101112..1f, the IV of spec/95_test_vectors.md. -/
def iv : Block := Block.ofHex 0x101112131415161718191a1b1c1d1e1f

/-- "0123456789abcdef". -/
def digits : Block := Block.ofHex 0x30313233343536373839616263646566

/-- V-K1: the round keys of "TestKey123" under the reference digests. -/
def keys : RoundKeys := #v[
  Block.ofHex 0xffe245f05306f1454c59268dcf4b3a5a, Block.ofHex 0x65b8871ed3d28bd7b47d3d8ef8d6459b,
  Block.ofHex 0xb2e27373e5f44f13aae75cec9f47d072, Block.ofHex 0xc1f047a417a6d4e6e6f9109a03416719,
  Block.ofHex 0x808492db9c14a42323511b1b4ea64fb3, Block.ofHex 0xd5323ed9896386d2acd6a6b6215e20aa,
  Block.ofHex 0x8e5f26efc9b341215a507e29c5a9fa8e, Block.ofHex 0x174783a1f534d59b24207bf10ac06c80,
  Block.ofHex 0x2e86047999b037fb1550bcc15d2ba04e, Block.ofHex 0xeebe76518df62ab0a01258560d8eb5c7,
  Block.ofHex 0x73f625ebea02c8edf955fd78e93c41b7]

/-- The core with the key of V-K1, DONE set and `d` in DIN. -/
def keyed (d : Block) : State := { State.reset with keyv := true, rk := keys, done := true, din := d }

/-- The same with a message open. -/
def opened (dir : Dir) (mode : Mode) (ivpend : Bool) (chain d : Block) : State :=
  openMessage dir mode ivpend chain (keyed d)

/-- The core with the command word `w` pending and nothing else done. -/
def pending (w : Word) : State := { State.reset with pend := w, busy := true }

/-- The core with a host program and the host's turn next. -/
def hosted (ops : List HostOp) (s : State) : State :=
  { s with env.hostProg := ops, env.turns := [.host] }

/-! ### Encoding (95_test_vectors.md 2.5, and R90 for the words written out) -/

theorem test_decode_keyexp : decode 0b00000000000000000000000000000001#32 = .ok .keyexp := by decide
theorem test_decode_encb : decode 0b00000000000000000000000000000010#32 = .ok .encb := by decide
theorem test_decode_decb : decode 0b00000000000000000000000000000011#32 = .ok .decb := by decide
theorem test_decode_start : decode 0b00000000000000000000000000100100#32 = .ok (.start .encrypt .cbc) ∧
    decode 0b00000000000000000000000000010100#32 = .ok (.start .decrypt .ecb) := by decide
theorem test_decode_block : decode 0b00000000000000000000000000000101#32 = .ok .block := by decide
theorem test_decode_final : decode 0b00000000000000000000101100000110#32 = .ok (.final 11) := by decide
theorem test_decode_abort : decode 0b00000000000000000000000000000111#32 = .ok .abort := by decide
theorem test_decode_illegal :
    [0x00000000#32, 0x00000008#32, 0x0000000F#32, 0x80000001#32, 0x00000044#32, 0x00000104#32,
      0x00000015#32, 0x00001006#32, 0x00000016#32, 0xFFFFFFFF#32].map (fun w => (decode w).toOption)
      = List.replicate 10 none := by decide
theorem test_illegal_names :
    decode 0x00000008#32 = .error .reservedOp ∧ decode 0x00000044#32 = .error .reservedBit ∧
    decode 0x00000104#32 = .error .unusedField := by decide
theorem test_encode_final : encode (.final 11) = 0x00000B06#32 := by decide
theorem test_table_word :
    decodeTableWord 32 0x00000034 = some (.start .decrypt .cbc) ∧
    decodeTableWord 32 0x00000012 = none := by decide
theorem test_table_rows : opcodeTable.Pairwise fun r q => r.pattern &&& 0xF#32 ≠ q.pattern &&& 0xF#32 := by
  decide
theorem test_assemble :
    assemble "START dec, cbc".toList = some (.start .decrypt .cbc) ∧
    assemble "final 11".toList = some (.final 11) ∧ assemble "FINAL".toList = some (.final 0) ∧
    assemble "FINAL 16".toList = none := by decide +kernel

/-! ### Well-formedness: a term each check refuses (R63, R83) -/

theorem test_nb_out_of_range : (Instr.final 16).wellFormed = false := by decide
theorem test_narrow_access : (Access.mk .byte 0x20).wellFormed = false ∧
    (Access.mk .half 0x20).wellFormed = false := by decide
theorem test_misaligned_access : (Access.mk .word 0x22).wellFormed = false := by decide
theorem test_narrow_host_op : (HostOp.rd ⟨.half, 0x08⟩).wellFormed = false ∧
    (HostOp.wr ⟨.word, 0x0D⟩ 1).wellFormed = false := by decide

/-! ### Layers and blocks (2.1, 2.2) -/

theorem test_layers :
    sub seq = Block.ofHex 0x070a0d101316191c1f2225282b2e3134 ∧
    invSub seq = Block.ofHex 0x53fea954ffaa5500ab5601ac5702ad58 ∧
    perm seq = Block.ofHex 0x00010203050607040a0b08090f0c0d0e ∧
    invPerm seq = Block.ofHex 0x00010203070405060a0b08090d0e0f0c := by decide +kernel
theorem test_mix :
    mix seq = Block.ofHex 0x01030507090b0d0f11131517191b1d10 ∧
    invMix (Block.ofHex 0x01000000000000000000000000000000) =
      Block.ofHex 0x02ff01ff01ff01ff01ff01ff01ff01ff ∧
    addRK seq (Vector.replicate 16 0xff) = Block.ofHex 0xfffefdfcfbfaf9f8f7f6f5f4f3f2f1f0 := by
  decide +kernel
theorem test_encBlock :
    encBlock (Vector.ofFn fun r : Fin 11 => Vector.replicate 16 (BitVec.ofNat 8 r.val)) seq =
      Block.ofHex 0x326a3b021aec2ac8d18a4449cf165353 := by decide +kernel
theorem test_decBlock :
    decBlock (Vector.replicate 11 Block.zero) (Block.ofHex 0x3449e485f758927edeb40e1e7430acd6) =
      Block.zero := by decide +kernel
/-- R142, by hand, under a digest that answers the index byte and then the key: 00 before `seq`, then
01 before that. -/
theorem test_keyExpand_order :
    expandedKey (fun m => Vector.ofFn fun i : Fin 32 => m[(i.val + 16) % 17]) seq 2 =
      Block.ofHex 0x0100000102030405060708090a0b0c0d := by decide +kernel

/-! ### The commands (2.3 to 2.9) -/

theorem test_keyexp :
    nextWith (exec .keyexp State.reset) (fun t => statusWord t == 0x00000102) = true := by decide
theorem test_keyexp_open :
    leaves 0x00001F52 Block.zero (exec .keyexp (opened .decrypt .cbc true Block.zero seq)) = true := by
  decide
theorem test_encb : leaves 0x00002102 (Block.ofHex 0x1bb0098888ae3c2c818fa7ba456e8da6)
    (exec .encb (keyed seq)) = true := by decide +kernel
theorem test_encb_no_key : leaves 0x00000042 Block.zero (exec .encb State.reset) = true := by decide
theorem test_decb : leaves 0x00002102 (Block.ofHex 0xc52f66035232ce240475a9e56db15423)
    (exec .decb (keyed seq)) = true := by decide +kernel
theorem test_start_cbc :
    leaves 0x00001F02 Block.zero (exec (.start .decrypt .cbc) (keyed seq)) = true ∧
    nextWith (exec (.start .encrypt .cbc) (offerEntropy (some iv) (keyed seq)))
      (fun t => statusWord t == 0x00002B02 && t.dout == iv && t.chain == iv && t.env.entropy == none)
      = true := by decide +kernel
/-- R281: with nothing offered even a START without a key stays BUSY; with an offer it ends with
NO_KEY. -/
theorem test_start_waits_before_no_key :
    nextWith (coreStep (pending 0x00000024)) (fun t => t == pending 0x00000024) = true ∧
    leaves 0x00000042 Block.zero (coreStep (offerEntropy (some iv) (pending 0x00000024))) = true := by
  decide +kernel
theorem test_block_cbc_enc :
    nextWith (exec .block (opened .encrypt .cbc false iv digits)) (fun t =>
      t.dout == Block.ofHex 0x1c01016e119a4a5c8a694d453bb1bffc && t.chain == t.dout) = true := by
  decide +kernel
theorem test_block_cbc_dec :
    nextWith (exec .block (opened .decrypt .cbc false iv
        (Block.ofHex 0x1c01016e119a4a5c8a694d453bb1bffc)))
      (fun t => t.dout == digits && t.chain == t.din) = true := by decide +kernel
/-- "Hello World" and five bytes FINAL ignores. -/
theorem test_final_enc : leaves 0x00002102 (Block.ofHex 0xfb6f6abd9539e0e2efe65e82acd36cda)
    (exec (.final 11) (opened .encrypt .cbc false iv
      (Block.ofHex 0x48656c6c6f20576f726c64ffffffffff))) = true := by decide +kernel
theorem test_final_dec_padlen : leaves 0x00032102 (Block.ofHex 0x41414141414141414141414141030303)
    (exec (.final 0) (opened .decrypt .cbc false iv
      (Block.ofHex 0xc139fc26eeac1b3b904830b300597a6b))) = true := by decide +kernel
theorem test_abort :
    nextWith (exec .abort (opened .decrypt .cbc true Block.zero seq))
      (fun t => statusWord t == 0x00000102 && t.dout == Block.zero && t.keyv) = true := by decide
theorem test_block_unreachable_context :
    faults (exec .block (opened .encrypt .ecb true Block.zero seq)) = true := by decide

/-! ### Padding and the host's functions (2.10, 2.11) -/

theorem test_pad :
    pad [] = List.replicate 16 0x10 ∧ (pad (List.replicate 11 0x41)).drop 11 = List.replicate 5 0x05 ∧
    (pad (List.replicate 17 0x41)).drop 17 = List.replicate 15 0x0f := by decide
theorem test_padCheck :
    padCheck (Block.ofHex 0x41414141414141414141414104030303) = some 3 ∧
    padCheck (Block.ofHex 0x10101010101010101010101010101010) = some 16 ∧
    padCheck (Block.ofHex 0x11101010101010101010101010101010) = none ∧
    padCheck (Block.ofHex 0x41414141414141414141414141030203) = none ∧
    padCheck (Block.ofHex 0x41414141414141414141414141414100) = none ∧
    padCheck (Block.ofHex 0x41414141414141414141414141414111) = none := by decide +kernel
theorem test_unpad : unpad (List.replicate 16 0x41 ++ List.replicate 16 0x10) =
    some (List.replicate 16 0x41) := by decide
theorem test_hex :
    hexEncode [0x00, 0x1F, 0xA0] = "001fa0".toList ∧
    hexDecode "001FA0".toList = some [0x00, 0x1F, 0xA0] ∧
    hexDecode "abc".toList = none ∧ hexDecode "zz".toList = none ∧ hexDecode "ab cd".toList = none := by
  decide +kernel
theorem test_lengthCheck :
    lengthCheck (List.replicate 15 0) .ecb = false ∧ lengthCheck [] .ecb = false ∧
    lengthCheck (List.replicate 16 0) .ecb = true ∧ lengthCheck (List.replicate 16 0) .cbc = false ∧
    lengthCheck (List.replicate 32 0) .cbc = true ∧ lengthCheck (List.replicate 40 0) .cbc = false := by
  decide
/-- The Unicode standard's forms: the euro sign is e2 82 ac; c0 80 is overlong; ed a0 80 a surrogate. -/
theorem test_utf8 : utf8 ['€'] = [0xe2, 0x82, 0xac] ∧ utf8Decode [0xc0, 0x80] = none ∧
    utf8Decode [0xed, 0xa0, 0x80] = none := by decide +kernel

/-! ### The window (2.12, P4) -/

theorem test_packing : (List.finRange 4).map (wordOfBlock (Block.ofHex 0x48656c6c6f20576f726c640000000000)) =
    [0x6C6C6548, 0x6F57206F, 0x00646C72, 0x00000000] := by decide +kernel
theorem test_status_write : statusWord (writeReg .status 0x00000002
    { State.reset with done := true, ovr := true }) = 0x00000004 := by decide
theorem test_write_while_busy : nextWith (step (hosted [wr 0x20 0xDEADBEEF] (pending 0x00000001)))
    (fun t => readReg (.din 0) t == 0 && t.ovr && t.pend == 1) = true := by decide
theorem test_read_status_while_busy : nextWith (step (hosted [rd 0x08] (pending 0x00000001)))
    (fun t => t.env.hostReads == [(0x08, 0x00000001)]) = true := by decide
theorem test_bus_refusal :
    refuses .busAccess (step (hosted [.rd ⟨.half, 0x20⟩] State.reset)) = true ∧
    refuses .busAccess (step (hosted [.wr ⟨.word, 0x21⟩ 0] State.reset)) = true := by decide
theorem test_soft_reset : nextWith (step (hosted [wr 0x04 0x00000003] (keyed seq)))
    (fun t => t == { State.reset with env := t.env }) = true := by decide +kernel
theorem test_step_runs_placed_word :
    leaves 0x00000042 Block.zero (step (State.reset.withFetchWord 32 0x00000002)) = true := by decide

/-! ### Host procedures (W3, W4, W7) -/

/-- The procedure ends with a result that has the property. -/
def okWith {α : Type} (r : Except HostError (α × State)) (p : α → Bool) : Bool :=
  match r with
  | .ok (a, _) => p a
  | .error _ => false

theorem test_encrypt_empty : okWith (encrypt [] .ecb (keyed seq))
    (fun c => c == "95d5abf19e979f4e94c8c208a456de83".toList) = true := by decide +kernel
theorem test_decryptText_hello :
    okWith (decryptText "712eca7007fad3aaf4c31b009db7e3a1".toList .ecb (keyed seq))
      (fun p => p == "Hello World".toList) = true := by decide +kernel

/-! ### Witnesses: states and operands that meet the hypotheses of each obligation -/

theorem witness_DecodeEncodeRoundTrip :
    (Instr.final 0).wellFormed = true ∧ (Instr.final 15).wellFormed = true ∧
    (Instr.start .decrypt .cbc).wellFormed = true := by decide
theorem witness_EncodeOfDecodedWord :
    decode 0x00000F06#32 = .ok (.final 15) ∧ decode 0x00000034#32 = .ok (.start .decrypt .cbc) := by
  decide
theorem witness_LegalWordsMatchOneRow :
    0x00000F06#32 &&& 0xFFFFF0FF#32 = 0x00000006#32 ∧
    (opened .decrypt .ecb false Block.zero seq).mopen = true ∧
    (opened .decrypt .ecb false Block.zero seq).mdir = .decrypt ∧ (1 : Nat) ≠ 0 ∧ (15 : Nat) ≠ 0 := by
  decide
theorem witness_IllegalWordsEndWithIllegalCommand :
    (pending 0x00000044).busy = true ∧ decode (pending 0x00000044).pend = .error .reservedBit := by
  decide
theorem witness_StepRunsTheDecodedCommand :
    (pending 0x00000002).busy = true ∧ decode (pending 0x00000002).pend = .ok .encb ∧
    (setTurns [.core, .host] (pending 0x00000002)).env.turns = .core :: [.host] ∧
    (pending 0x00000002).env.turns = [] ∧ coreEnabled (pending 0x00000002) = true := by decide

/-- A keyed core on which `w` is pending. -/
def keyedPending (w : Word) : State := { keyed seq with pend := w, busy := true }

theorem witness_EnabledCompletionEndsTheCommand :
    (keyedPending 0x00000007).Inv ∧ (keyedPending 0x00000007).busy = true ∧
    coreEnabled (keyedPending 0x00000007) = true ∧
    (keyedPending 0x00000024).Inv ∧ (keyedPending 0x00000024).busy = true ∧
    coreEnabled (keyedPending 0x00000024) = false := by decide
/-- A START that will be rejected waits too. -/
theorem witness_EnabledCompletionEndsTheCommand_rejected :
    (pending 0x00000024).Inv ∧ (pending 0x00000024).busy = true ∧
    coreEnabled (pending 0x00000024) = false ∧
    coreEnabled (offerEntropy (some iv) (pending 0x00000024)) = true := by decide
theorem witness_EntropyStallUntilOfferOrReset :
    (keyedPending 0x00000024).busy = true ∧
    decode (keyedPending 0x00000024).pend = .ok (.start .encrypt .cbc) ∧
    (keyedPending 0x00000024).mopen = false ∧ (keyedPending 0x00000024).keyv = true ∧
    (keyedPending 0x00000024).env.entropy = none ∧
    (pending 0x00000024).busy = true ∧ (pending 0x00000024).mopen = false ∧
    (pending 0x00000024).keyv = false ∧ (pending 0x00000024).env.entropy = none ∧
    (opened .encrypt .ecb false Block.zero seq).mopen = true := by decide
theorem witness_SubstituteAndKeyInjection : 0 < 16 ∧ 15 < 16 := by decide
theorem witness_PermuteRotatesRows : 0 < 4 ∧ 3 < 4 := by decide
theorem witness_MixAndInverseMixFormulas : 0 < 15 ∧ 14 < 15 := by decide
theorem witness_BlockCipherRounds : 0 < 10 ∧ 9 < 10 := by decide
theorem witness_KeyExpandFollowsTheDigest : 9 < 10 ∧ 15 < 16 := by decide
/-- Row 3 alike; bytes 14 and 15 alike; bytes 15, 0 and 1 alike; other bytes not. -/
theorem witness_DiffusionOfPermuteAndMix :
    let a := seq
    let b := seq.set 5 0xff
    (∀ i : Fin 16, i.val / 4 = 3 → a[i] = b[i]) ∧ a[14] = b[14] ∧ a[15] = b[15] ∧ a[0] = b[0] ∧
      a[1] = b[1] ∧ a ≠ b := by decide +kernel
/-- W5: blocks that differ in bit 5 of byte 6 agree in their low 5 bits; and k = 8. -/
theorem witness_LowBitsDependOnLowBits :
    5 ≤ 8 ∧
    (∀ i : Fin 16, (Block.ofHex 0x48656c6c6f20576f726c640505050505)[i].setWidth 5 =
      (Block.ofHex 0x48656c6c6f20776f726c640505050505)[i].setWidth 5) ∧
    8 ≤ 8 ∧ SameLowBits 8 seq seq :=
  ⟨by decide, by decide +kernel, by decide, fun _ _ => rfl⟩
theorem witness_EncbEncryptsOneBlock :
    (keyed seq).keyv = true ∧ State.reset.keyv = false ∧ (pending 0x00000012).busy = true ∧
    opField (pending 0x00000012).pend = 0x2 ∧ (pending 0x00000012).pend ≠ 0x00000002 := by decide
theorem witness_DecbDecryptsOneBlock :
    (keyed seq).keyv = true ∧ State.reset.keyv = false ∧ (pending 0x80000003).busy = true ∧
    opField (pending 0x80000003).pend = 0x3 ∧ (pending 0x80000003).pend ≠ 0x00000003 := by decide
theorem witness_KeyexpExpandsTheMasterKey :
    State.reset.mopen = false ∧ (opened .decrypt .cbc true Block.zero seq).mopen = true ∧
    (pending 0x00000101).busy = true ∧ opField (pending 0x00000101).pend = 0x1 ∧
    (pending 0x00000101).pend ≠ 0x00000001 := by decide
theorem witness_RoundKeyAndKeyvWriters :
    nextWith (step (setTurns [.reset] (keyed seq))) (fun t => t.rk != keys && !t.keyv) = true ∧
    (keyed seq).keyv = true ∧ State.reset.keyv = false ∧
    nextWith (step (State.reset.withFetchWord 32 1)) (fun t => t.keyv) = true := by decide +kernel
theorem witness_PadCheckIsUnpadOfTheLastBlock : 0 < 16 ∧ 15 < 16 := by decide
theorem witness_StartOpensTheMessage :
    (opened .encrypt .ecb false Block.zero seq).mopen = true ∧
    State.reset.mopen = false ∧ State.reset.keyv = false ∧
    (keyed seq).mopen = false ∧ (keyed seq).keyv = true ∧
    (offerEntropy (some iv) (keyed seq)).env.entropy = some iv ∧
    (offerEntropy (some iv) State.reset).env.entropy = some iv ∧
    (offerEntropy (some iv) State.reset).keyv = false ∧
    (offerEntropy (some iv) (opened .encrypt .ecb false Block.zero seq)).mopen = true ∧
    (offerEntropy (some iv) (opened .encrypt .ecb false Block.zero seq)).env.entropy = some iv ∧
    (pending 0x00000044).busy = true ∧ opField (pending 0x00000044).pend = 0x4 ∧
    (pending 0x00000044).pend &&& 0xFFFFFFCF ≠ 0x00000004 := by decide
theorem witness_OnlyCbcStartDraws :
    Instr.encb ≠ .start .encrypt .cbc ∧ nextWith (exec .encb State.reset) (fun _ => true) = true ∧
    nextWith (exec (.start .encrypt .cbc) (offerEntropy (some iv) (keyed seq)))
      (fun t => t.err == .ok) = true ∧
    nextWith (exec (.start .encrypt .cbc) (offerEntropy (some iv) State.reset))
      (fun t => t.err == .noKey) = true ∧
    State.reset.env.entropy = none := by decide
theorem witness_BlockProcessesOneBlock :
    State.reset.mopen = false ∧
    (∀ d m p, (opened d m p iv seq).mopen = true ∧ (opened d m p iv seq).mdir = d ∧
      (opened d m p iv seq).mmode = m ∧ (opened d m p iv seq).ivpend = p) ∧
    (pending 0x00000105).busy = true ∧ opField (pending 0x00000105).pend = 0x5 ∧
    (pending 0x00000105).pend ≠ 0x00000005 :=
  ⟨rfl, fun _ _ _ => ⟨rfl, rfl, rfl, rfl⟩, by decide, by decide, by decide⟩
theorem witness_FinalEncryptPadsAndCloses :
    0 < 16 ∧ 15 < 16 ∧ (opened .encrypt .cbc false iv seq).mopen = true ∧
    (opened .encrypt .cbc false iv seq).mdir = .encrypt := by decide
/-- W7: the last byte decrypts to 0, and a CBC block that decrypts to padding of 3. -/
theorem witness_FinalDecryptChecksPadding :
    (opened .decrypt .cbc true Block.zero seq).ivpend = true ∧
    (opened .decrypt .ecb false Block.zero seq).ivpend = false ∧
    padCheck (decBlock keys (Block.ofHex 0x662a110b33ed1b48818d7f0f69f54d4e)) = none ∧
    padCheck (xorBlock (decBlock keys (Block.ofHex 0xc139fc26eeac1b3b904830b300597a6b)) iv) = some 3 := by
  decide +kernel
theorem witness_FinalRejections :
    State.reset.mopen = false ∧ (opened .decrypt .ecb false Block.zero seq).mopen = true ∧
    (opened .decrypt .ecb false Block.zero seq).mdir = .decrypt ∧ (1 : Nat) ≠ 0 ∧
    (pending 0x00001006).busy = true ∧ opField (pending 0x00001006).pend = 0x6 ∧
    (pending 0x00001006).pend &&& 0xFFFFF0FF ≠ 0x00000006 := by decide
theorem witness_AbortClosesWithoutOutput :
    (pending 0x00000017).busy = true ∧ opField (pending 0x00000017).pend = 0x7 ∧
    (pending 0x00000017).pend ≠ 0x00000007 := by decide
theorem witness_RejectedCommandChangesOnlyResult :
    nextWith (coreStep (pending 0x00000002)) (fun t => !t.busy && t.err.rejected) = true := by decide
theorem witness_ErrorsEachCommandCanRaise :
    (pending 0x00000002).busy = true ∧
    nextWith (exec .encb (pending 0x00000002)) (fun t => !t.busy) = true ∧
    (acceptCommand 6 (opened .decrypt .cbc true Block.zero seq)).Inv ∧
    nextWith (exec (.final 0) (acceptCommand 6 (opened .decrypt .cbc true Block.zero seq)))
      (fun t => !t.busy && t.err == .truncatedCiphertext) = true := by decide

/-- A decrypting message whose FINAL is pending. -/
def finalPending (mode : Mode) (ivpend : Bool) (d : Block) : State :=
  acceptCommand 0x00000006 (opened .decrypt mode ivpend Block.zero d)

theorem witness_DataErrorsCloseTheMessage :
    nextWith (coreStep (finalPending .ecb false (Block.ofHex 0x662a110b33ed1b48818d7f0f69f54d4e)))
      (fun t => !t.busy && t.err == .invalidPadding) = true ∧
    nextWith (coreStep (finalPending .cbc true seq))
      (fun t => !t.busy && t.err == .truncatedCiphertext) = true ∧
    nextWith (coreStep (pending 0x00000002)) (fun t => !t.busy && t.err.rejected) = true := by
  decide +kernel
theorem witness_OutvFollowsTheCommand :
    nextWith (exec .abort (pending 0x00000007)) (fun t => !t.busy && !t.err.rejected) = true ∧
    nextWith (exec .encb (pending 0x00000002)) (fun t => !t.busy && t.err.rejected) = true := by decide
theorem witness_PadlenFollowsTheCommand :
    (finalPending .ecb false seq).mdir = .decrypt ∧
    nextWith (exec (.final 0) (finalPending .ecb false (Block.ofHex 0x95d5abf19e979f4e94c8c208a456de83)))
      (fun t => !t.busy && t.err == .ok && t.padlen == 16) = true ∧
    nextWith (exec .encb (pending 0x00000002)) (fun t => !t.busy && t.err.rejected) = true := by
  decide +kernel
theorem witness_StatusFlagWriters :
    nextWith (step (hosted [wr 0x0C 1] State.reset)) (fun t => t.busy) = true ∧
    nextWith (step (pending 0x00000002)) (fun t => !t.busy && t.done) = true ∧
    nextWith (step (setTurns [.reset] (pending 0x00000002))) (fun t => !t.busy) = true ∧
    nextWith (step (hosted [wr 0x08 0x00000002] (keyed seq))) (fun t => !t.done) = true ∧
    nextWith (step (hosted [wr 0x20 1] (pending 0x00000002))) (fun t => t.ovr) = true ∧
    nextWith (step (hosted [wr 0x08 0x00000004] (setOvr State.reset))) (fun t => !t.ovr) = true := by
  decide
theorem witness_BlockRegisterWriters :
    nextWith (step (hosted [wr 0x1C 1] State.reset)) (fun t => t.mk != State.reset.mk) = true ∧
    nextWith (step (hosted [wr 0x2C 1] State.reset)) (fun t => t.din != State.reset.din) = true ∧
    nextWith (step (setTurns [.reset] (keyed seq))) (fun t => t.din != (keyed seq).din) = true ∧
    nextWith (step (acceptCommand 0x00000007 { State.reset with dout := seq }))
      (fun t => t.dout != seq) = true ∧
    nextWith (step (hosted [wr 0x04 1] State.reset)) (fun t => t.ie) = true ∧
    nextWith (step (pending 0x00000002)) (fun t => t.err != State.reset.err) = true ∧
    nextWith (step (setTurns [.reset] (opened .decrypt .cbc true iv seq)))
      (fun t => !t.mopen && t.mdir == .encrypt && t.mmode == .ecb && !t.ivpend &&
        t.chain == Block.zero) = true ∧
    nextWith (step (acceptCommand 0x00000014 (keyed seq)))
      (fun t => t.mopen && t.mdir == .decrypt) = true := by decide +kernel
theorem witness_InterruptLine :
    nextWith (coreStep (pending 0x00000002)) (fun t => !t.busy) = true ∧
    (0x00000002 : Word).getLsbD 1 = true := by decide
theorem witness_BlockPackingAndWordWrites :
    3 < 4 ∧ State.reset.busy = false ∧ (0 : Fin 4) ≠ 3 ∧ 15 < 16 := by decide
theorem witness_RegisterWriteEffects :
    State.reset.busy = false ∧ (pending 0).busy = true ∧ (0x00000001 : Word).getLsbD 1 = false ∧
    (0x00000003 : Word).getLsbD 1 = true ∧
    (hosted [wr 0x0C 2] State.reset).env.hostProg = [.wr ⟨.word, 0x0C⟩ 2] ∧
    regAt ⟨.word, 0x0C⟩ = some .cmd ∧ (takeTurn (hosted [wr 0x0C 2] State.reset)).1 = .host ∧
    (setTurns [.reset] State.reset).env.turns = [.reset] := by decide
theorem witness_HostKeepsPendingCommandInputs :
    (hosted [wr 0x20 1] (pending 0x00000002)).busy = true ∧
    nextWith (hostStep (hosted [wr 0x20 1] (pending 0x00000002))) (fun t => t.busy) = true := by decide
theorem witness_ResultIndependentOfHostBits :
    (keyedPending 0x00000007).busy = true ∧
    nextWith (coreStep (keyedPending 0x00000007)) (fun t => !t.busy) = true := by decide
theorem witness_ReadsHaveNoSideEffect :
    (hosted [rd 0x3C] (keyed seq)).env.hostProg = [.rd ⟨.word, 0x3C⟩] ∧
    nextWith (hostStep (hosted [rd 0x3C] (keyed seq))) (fun _ => true) = true := by decide +kernel
theorem witness_RegisterReads : 21 ≤ 31 := by decide
theorem witness_ResetValues :
    15 < 16 ∧ 10 < 11 ∧ (takeTurn (setTurns [.reset] (pending 0x00000002))).1 = .reset := by decide
theorem witness_StepKeepsTheInvariants :
    (finalPending .cbc true seq).Inv ∧
    nextWith (step (finalPending .cbc true seq)) (fun t => !t.mopen) = true := by decide
theorem witness_PendIrrelevantWhileIdle :
    State.reset.busy = false ∧
    nextWith (step (hosted [wr 0x0C 2] State.reset)) (fun t => t.busy) = true ∧
    nextWith (step State.reset) (fun t => !t.busy) = true := by decide
theorem witness_LegalStateNeverStops :
    (hosted [wr 0x0C 2, rd 0x3C] State.reset).Inv ∧
    HostAccessesLegal (hosted [wr 0x0C 2, rd 0x3C] State.reset) := by decide
theorem witness_ConstructInstallsTheKey : State.reset.busy = false := by decide
theorem witness_EncryptReadsTheMessageLevelBlocks :
    IdleWithKey (offerEntropy (some iv) (keyed seq)) ∧
    (offerEntropy (some iv) (keyed seq)).env.entropy = some iv := by decide
theorem witness_DecryptAgreesWithTheMessageLevel :
    IdleWithKey (keyed seq) ∧ lengthCheck (bytesOfBlock seq) .ecb = true ∧
    lengthCheck (bytesOfBlock iv ++ bytesOfBlock seq) .cbc = true ∧
    decEcb (keyed seq).rk [Block.ofHex 0x95d5abf19e979f4e94c8c208a456de83] = some [] ∧
    decEcb (keyed seq).rk [Block.ofHex 0x662a110b33ed1b48818d7f0f69f54d4e] = none := by decide +kernel
theorem witness_DecryptOfEncryptIsThePlaintext : State.reset.busy = false := by decide
theorem witness_CiphertextLengths :
    IdleWithKey (keyed seq) ∧ okWith (encrypt [] .ecb (keyed seq)) (fun c => c.length == 32) = true ∧
    okWith (encrypt [] .cbc (offerEntropy (some iv) (keyed seq))) (fun c => c.length == 64) = true := by
  decide +kernel

end Sys2Proof.Tests
end

section
/-! Proofs of the statements about OUTV, PADLEN and the reset values (spec/10_state.md R34, R35, R45). -/

namespace Sys2Proof.Machine

variable {s t : State}

/-! ### A command that ends, rejected or not (R243 to R245) -/

/-- R245: a command that ends rejected changes BUSY, DONE and ERR and nothing else. -/
theorem exec_rejected {i : Instr} (hs : s.busy = true) (h : exec i s = .next t)
    (ht : t.busy = false) (hr : t.err.rejected = true) : t = raiseError t.err s := by
  obtain ⟨-, -, rfl⟩ | ⟨c, -, rfl⟩ | ⟨-, -, hacc⟩ := exec_waits_rejects_or_ends h
  · simp [hs] at ht
  · rfl
  · simp [hacc] at hr

theorem execKeyexp_accepted (h : execKeyexp s = .next t) (hr : t.err.rejected = false) :
    t = complete (setPadlen 0 (noOutput (installKeys (keyExpand s.mk) s))) := by
  obtain ⟨-, rfl⟩ | ⟨-, hend⟩ := execKeyexp_cases h
  · cases hr
  · exact hend

theorem singleBlock_accepted {b : Block} (h : singleBlock b s = .next t)
    (hr : t.err.rejected = false) : t = complete (setPadlen 0 (emitBlock b s)) := by
  obtain ⟨-, rfl⟩ | ⟨-, hend⟩ := singleBlock_cases h
  · cases hr
  · exact hend

/-- R170: a START that opens its message puts a block out exactly for a CBC encryption. -/
theorem execStart_accepted {d : Dir} {m : Mode} (hs : s.busy = true)
    (h : execStart d m s = .next t) (ht : t.busy = false) (hr : t.err.rejected = false) :
    ∃ o, t = complete (setPadlen 0 o) ∧ o.outv = (d == .encrypt && m == .cbc) := by
  obtain ⟨-, -, -, rfl⟩ | ⟨-, rfl⟩ | ⟨-, -, rfl⟩ | ⟨-, -, hopen⟩ := execStart_cases h
  · simp [hs] at ht
  · cases hr
  · cases hr
  · obtain ⟨rfl, hend⟩ | ⟨rfl, rfl, hend⟩ | ⟨rfl, rfl, iv, -, hend⟩ := hopen
    · exact ⟨_, hend, by cases d <;> rfl⟩
    · exact ⟨_, hend, rfl⟩
    · exact ⟨_, hend, rfl⟩

/-- R172: a BLOCK that is not rejected puts a block out exactly when it does not load the IV. -/
theorem execBlock_accepted (h : execBlock s = .next t) (hr : t.err.rejected = false) :
    ∃ o, t = complete (setPadlen 0 o) ∧ o.outv = !s.ivpend := by
  obtain ⟨-, rfl⟩ | ⟨-, -, -, hiv, hend⟩ | ⟨-, hiv, _, _, hend, -⟩ := execBlock_cases h
  · cases hr
  · exact ⟨_, hend, by simp [hiv]⟩
  · exact ⟨_, hend, by simp [hiv]⟩

/-- R174, R175: a FINAL that is not rejected succeeds in an encrypting message, finds the padding of
its output block in a decrypting one, or fails there with the output zeroed. -/
theorem execFinal_accepted {nb : Nat} (h : execFinal nb s = .next t)
    (hr : t.err.rejected = false) :
    (s.mdir = .encrypt ∧ t.err = .ok ∧ t.outv = true ∧ t.padlen = 0) ∨
    (s.mdir = .decrypt ∧ nb = 0 ∧ t.err = .ok ∧ t.outv = true ∧
      ∃ n, padCheck t.dout = some n ∧ t.padlen = BitVec.ofNat 5 n) ∨
    (t.err ≠ .ok ∧ t.outv = false ∧ t.padlen = 0) := by
  obtain ⟨-, rfl⟩ | ⟨-, -, -, rfl⟩ | ⟨-, hdir, rfl⟩ | ⟨-, hdir, hnb, hdec⟩ := execFinal_cases h
  · cases hr
  · cases hr
  · exact .inl ⟨hdir, rfl, rfl, rfl⟩
  · obtain ⟨-, rfl⟩ | ⟨-, -, rfl⟩ | ⟨-, n, hpad, rfl⟩ := finalDec_cases hdec
    · exact .inr (.inr ⟨by simp, rfl, rfl⟩)
    · exact .inr (.inr ⟨by simp, rfl, rfl⟩)
    · exact .inr (.inl ⟨hdir, hnb, rfl, rfl, n, hpad, rfl⟩)

/-- R35: PADLEN's five bits hold every pad length. -/
theorem toNat_padlen_of_padCheck {p : Block} {n : Nat} (h : padCheck p = some n) :
    (BitVec.ofNat 5 n).toNat = n := by
  have ⟨_, hle⟩ := padCheck_range h
  exact Nat.mod_eq_of_lt (by omega)

/-! ### OUTV and PADLEN -/

/-- Settles O36: a rejected command is `raiseError` alone, and each other command's result says
whether it emitted a block. -/
theorem outvFollowsTheCommand : Obligations.OutvFollowsTheCommand := by
  intro i s t hs h ht
  refine ⟨fun hr => ?_, fun hr => ?_⟩
  · rw [exec_rejected hs h ht hr, raiseError_outv]
  · cases i with
    | keyexp => rw [execKeyexp_accepted h hr]; rfl
    | encb => rw [singleBlock_accepted h hr]; rfl
    | decb => rw [singleBlock_accepted h hr]; rfl
    | start d m => obtain ⟨o, rfl, hout⟩ := execStart_accepted hs h ht hr; exact hout
    | block => obtain ⟨o, rfl, hout⟩ := execBlock_accepted h hr; exact hout
    | final nb =>
      obtain ⟨-, herr, hout, -⟩ | ⟨-, -, herr, hout, -⟩ | ⟨herr, hout, -⟩ :=
        execFinal_accepted h hr <;> simp [herr, hout]
    | abort => rw [execAbort_cases h]; rfl

/-- Settles O37: only the decrypting FINAL that found its padding leaves a PADLEN other than 0, and
the pad length fits PADLEN. -/
theorem padlenFollowsTheCommand : Obligations.PadlenFollowsTheCommand := by
  intro i s t hs h ht
  refine ⟨fun hr => ?_, fun hr => ?_⟩
  · rw [exec_rejected hs h ht hr, raiseError_padlen]
  · cases i with
    | keyexp => simp [execKeyexp_accepted h hr]
    | encb => simp [singleBlock_accepted h hr]
    | decb => simp [singleBlock_accepted h hr]
    | start d m => obtain ⟨o, rfl, -⟩ := execStart_accepted hs h ht hr; simp
    | block => obtain ⟨o, rfl, -⟩ := execBlock_accepted h hr; simp
    | final nb =>
      obtain ⟨hdir, -, -, hlen⟩ | ⟨hdir, rfl, herr, -, n, hpad, hlen⟩ | ⟨herr, -, hlen⟩ :=
        execFinal_accepted h hr
      · simp [hdir, hlen]
      · rw [if_pos ⟨rfl, hdir, herr⟩, hlen, toNat_padlen_of_padCheck hpad]
        have ⟨hpos, hle⟩ := padCheck_range hpad
        exact ⟨hpos, hle, hpad⟩
      · simp [herr, hlen]
    | abort => simp [execAbort_cases h]

/-! ### Reset -/

/-- R270: the turn of the reset input resets the core. -/
theorem step_of_reset_turn (h : (takeTurn s).1 = .reset) :
    step s = .next (resetCore (takeTurn s).2) := by
  rw [step, h]; rfl

@[simp] theorem blockZero_getElem (i : Nat) (h : i < 16) : Block.zero[i] = 0 :=
  Vector.getElem_replicate h

/-- Settles O50: the reset input's step is `resetCore`, and the values after reset are read off the
reset state. -/
theorem resetValues : Obligations.ResetValues := by
  refine ⟨fun s hturn => ⟨_, _, step_of_reset_turn hturn⟩, by decide, by decide, by decide,
    by decide, by decide, fun i hi => ?_, fun r hr i hi => ?_, by decide⟩
  · simp [State.reset]
  · simp [State.reset]

end Sys2Proof.Machine
end

section
/-! Proofs of the statements about the register window: its address map, the accesses it refuses and
the packing of blocks into bus words (spec/20_memory.md R61 to R63, R66). -/

namespace Sys2Proof.Machine

/-! ### The address map and the accesses the core accepts (R61, R63) -/

theorem access_wellFormed_iff (a : Access) :
    a.wellFormed = true ↔ a.width = .word ∧ a.off.toNat % 4 = 0 := by
  simp [Access.wellFormed, Access.fullWidth, Access.aligned]

/-- Settles O41: an access reaches a register iff it is well formed, and the map is read off at each
of its 16 offsets. -/
theorem windowAddressMap : Obligations.WindowAddressMap := by
  refine ⟨fun a => ?_, rfl, rfl, rfl, rfl, by decide⟩
  rw [regAt_isSome, access_wellFormed_iff]

/-! ### Only the host's turn is ever refused (R63) -/

theorem checkStart_ne_refused (o s : State) (r : Refusal) : checkStart o s ≠ .refused r := by
  unfold checkStart
  split
  · nofun
  · split <;> nofun

theorem execStart_ne_refused (d : Dir) (m : Mode) (s : State) (r : Refusal) :
    execStart d m s ≠ .refused r := by
  match d, m with
  | .encrypt, .ecb => exact checkStart_ne_refused _ s r
  | .decrypt, .ecb => exact checkStart_ne_refused _ s r
  | .decrypt, .cbc => exact checkStart_ne_refused _ s r
  | .encrypt, .cbc =>
    obtain ⟨-, hdraw⟩ | ⟨iv, -, hdraw⟩ := drawIV_cases s
    · simp [execStart, startCbcEncrypt, hdraw]
    · simpa only [execStart, startCbcEncrypt, hdraw] using checkStart_ne_refused _ s r

theorem singleBlock_ne_refused (b : Block) (s : State) (r : Refusal) :
    singleBlock b s ≠ .refused r := by
  unfold singleBlock
  split <;> nofun

theorem execBlock_ne_refused (s : State) (r : Refusal) : execBlock s ≠ .refused r := by
  unfold execBlock
  split
  · nofun
  · split <;> nofun

theorem finalDec_ne_refused (s : State) (r : Refusal) : finalDec s ≠ .refused r := by
  unfold finalDec
  split
  · nofun
  · dsimp only
    split <;> nofun

theorem execFinal_ne_refused (nb : Nat) (s : State) (r : Refusal) :
    execFinal nb s ≠ .refused r := by
  unfold execFinal
  split
  · nofun
  · split
    · nofun
    · split
      · exact finalDec_ne_refused s r
      · nofun

/-- R281: every command has a meaning. -/
theorem exec_ne_refused (i : Instr) (s : State) (r : Refusal) : exec i s ≠ .refused r := by
  cases i with
  | keyexp => simp only [exec, execKeyexp]; split <;> nofun
  | encb => exact singleBlock_ne_refused _ s r
  | decb => exact singleBlock_ne_refused _ s r
  | start d m => exact execStart_ne_refused d m s r
  | block => exact execBlock_ne_refused s r
  | final nb => exact execFinal_ne_refused nb s r
  | abort => nofun

theorem coreStep_ne_refused (s : State) (r : Refusal) : coreStep s ≠ .refused r := by
  unfold coreStep
  split
  · split
    · exact exec_ne_refused _ s r
    · nofun
  · nofun

/-- R63: the host's turn is refused when its next access is one the core does not accept. -/
theorem hostStep_eq_refused_iff (s : State) (r : Refusal) :
    hostStep s = .refused r ↔
      r = .busAccess ∧ ∃ op rest, s.env.hostProg = op :: rest ∧ op.wellFormed = false := by
  cases hprog : s.env.hostProg with
  | nil => simp [hostStep, hprog]
  | cons op rest =>
    cases op with
    | wr a v =>
      cases hreg : regAt a <;>
        simp [hostStep, hprog, hreg, HostOp.wellFormed, ← regAt_isSome, eq_comm (a := r)]
    | rd a =>
      cases hreg : regAt a <;>
        simp [hostStep, hprog, hreg, HostOp.wellFormed, ← regAt_isSome, eq_comm (a := r)]
    | poll b want => simp only [hostStep, hprog]; split <;> simp [HostOp.wellFormed]
    | waitIrq => simp only [hostStep, hprog]; split <;> simp [HostOp.wellFormed]

/-- A step is refused by the host's turn or not at all. -/
theorem step_eq_refused_iff (s : State) (r : Refusal) :
    step s = .refused r ↔ (takeTurn s).1 = .host ∧ hostStep (takeTurn s).2 = .refused r := by
  unfold step
  cases (takeTurn s).1 with
  | core => simp [agentStep, coreStep_ne_refused]
  | host => simp [agentStep]
  | entropy o => simp [agentStep]
  | reset => simp [agentStep]

/-- Settles O42: only the host's turn can be refused, and taking the turn leaves its program. -/
theorem onlyBadAccessesAreRefused : Obligations.OnlyBadAccessesAreRefused := by
  intro s r
  rw [step_eq_refused_iff, hostStep_eq_refused_iff, takeTurn_hostProg, and_left_comm]

/-! ### Words and their bytes (R62) -/

/-- A word is what its four bytes say. -/
theorem word_ext {v w : Word} (h : ∀ j < 4, byteOfWord v j = byteOfWord w j) : v = w := by
  apply BitVec.eq_of_getLsbD_eq
  intro n hn
  have hbyte := congrArg (fun b => b.getLsbD (n % 8)) (h (n / 8) (by omega))
  have hmod : n % 8 < 8 := Nat.mod_lt _ (by decide)
  simpa [byteOfWord, hmod, Nat.div_add_mod] using hbyte

/-- Byte `j` of word `l` of a block after a write of word `k`. -/
theorem byteOfWord_wordOfBlock_setWordOfBlock (b : Block) (k l : Fin 4) (v : Word) (j : Nat)
    (h : j < 4) :
    byteOfWord (wordOfBlock (setWordOfBlock b k v) l) j =
      if l = k then byteOfWord v j else byteOfWord (wordOfBlock b l) j := by
  have hdiv : (4 * l.val + j) / 4 = l.val := by omega
  have hmod : (4 * l.val + j) % 4 = j := by omega
  rw [byteOfWord_wordOfBlock _ _ _ h, byteOfWord_wordOfBlock _ _ _ h, setWordOfBlock_getElem,
    hdiv, hmod]
  simp only [Fin.ext_iff]

theorem wordOfBlock_setWordOfBlock_same (b : Block) (k : Fin 4) (v : Word) :
    wordOfBlock (setWordOfBlock b k v) k = v :=
  word_ext fun j hj => by rw [byteOfWord_wordOfBlock_setWordOfBlock _ _ _ _ _ hj, if_pos rfl]

theorem wordOfBlock_setWordOfBlock_ne (b : Block) {k l : Fin 4} (v : Word) (h : l ≠ k) :
    wordOfBlock (setWordOfBlock b k v) l = wordOfBlock b l :=
  word_ext fun j hj => by rw [byteOfWord_wordOfBlock_setWordOfBlock _ _ _ _ _ hj, if_neg h]

/-! ### Writes of a word while BUSY = 0 (R66) -/

theorem writeReg_din_idle {s : State} (h : s.busy = false) (k : Fin 4) (v : Word) :
    writeReg (.din k) v s = setDin (setWordOfBlock s.din k v) s :=
  if_neg (by simp [h])

theorem writeReg_mk_idle {s : State} (h : s.busy = false) (k : Fin 4) (v : Word) :
    writeReg (.mk k) v s = setMk (setWordOfBlock s.mk k v) s :=
  if_neg (by simp [h])

/-- Settles O43: a block register's words and bytes are those of `wordOfBlock` and `byteOfWord`, and
an idle write of one word is `setWordOfBlock`. -/
theorem blockPackingAndWordWrites : Obligations.BlockPackingAndWordWrites := by
  refine ⟨fun s k j hj => ⟨byteOfWord_wordOfBlock s.din k j hj, byteOfWord_wordOfBlock s.dout k j hj⟩,
    fun b => setWordOfBlock_all b Block.zero, fun s k v hidle => ?_⟩
  rw [writeReg_din_idle hidle]
  exact ⟨wordOfBlock_setWordOfBlock_same _ _ _,
    fun l hl => wordOfBlock_setWordOfBlock_ne _ _ hl, ⟨_, rfl⟩,
    _, writeReg_mk_idle hidle k v, fun i hi => setWordOfBlock_getElem _ _ _ i hi⟩

end Sys2Proof.Machine
end

section
/-! Proofs of the statements about the command words: which words are legal, what each word decodes to
and what an illegal word does (spec/30_encoding.md R84 to R88). -/

namespace Sys2Proof

/-! ### What a word that matches a row says (R84 to R86) -/

@[simp] theorem matchesWord_iff (r : OpcodeRow) (w : Word) :
    r.matchesWord w = true ↔ w &&& r.mask = r.pattern := beq_iff_eq

@[simp] theorem and_fullMask (w : Word) : w &&& 0xFFFFFFFF#32 = w := BitVec.and_allOnes

/-- R84: the bits above OP that a word with opcode `op` must leave 0: the reserved bits, DIR and MODE
except in START, NB except in FINAL. -/
def mustBeZero (op : BitVec 4) : Word :=
  0xFFFFF0C0#32 ||| (if op = 0x4#4 then 0 else 0x00000030#32) |||
    (if op = 0x6#4 then 0 else 0x00000F00#32)

theorem and_ite_eq_zero_iff {p : Prop} [Decidable p] (w v : Word) :
    w &&& (if p then 0 else v) = 0#32 ↔ (¬ p → w &&& v = 0#32) := by
  split <;> simp [*]

theorem and_mustBeZero_iff (w : Word) (op : BitVec 4) :
    w &&& mustBeZero op = 0#32 ↔ w &&& 0xFFFFF0C0#32 = 0#32 ∧
      (op ≠ 0x4#4 → w &&& 0x00000030#32 = 0#32) ∧ (op ≠ 0x6#4 → w &&& 0x00000F00#32 = 0#32) := by
  rw [mustBeZero, BitVec.and_or_distrib_left, BitVec.and_or_distrib_left, BitVec.or_eq_zero_iff,
    BitVec.or_eq_zero_iff, and_assoc, and_ite_eq_zero_iff, and_ite_eq_zero_iff]

/-- R81, R84, R86: a row's pattern is its opcode, and its mask is OP and the bits that must be 0. -/
theorem opcodeTable_mask_and_pattern : ∀ r ∈ opcodeTable,
    r.mask = 0x0000000F#32 ||| mustBeZero (opField r.pattern) ∧
    r.pattern = (opField r.pattern).setWidth 32 ∧
    r.mask.extractLsb' 0 4 = 0xF#4 ∧
    r.mask &&& mustBeZero (opField r.pattern) = mustBeZero (opField r.pattern) ∧
    r.pattern &&& mustBeZero (opField r.pattern) = 0#32 := by
  decide

theorem and_opMask (w : Word) : w &&& 0x0000000F#32 = (opField w).setWidth 32 := by
  apply BitVec.eq_of_getLsbD_eq
  intro n hn
  interval_cases n <;> simp [opField]

/-- R84, R86: a word matches a row iff it has the row's opcode and the bits that must be 0 are. -/
theorem matchesWord_iff_fields {r : OpcodeRow} (hr : r ∈ opcodeTable) (w : Word) :
    r.matchesWord w = true ↔ opField r.pattern = opField w ∧ w &&& mustBeZero (opField w) = 0#32 := by
  obtain ⟨hmask, hpat, hop, hsub, hzero⟩ := opcodeTable_mask_and_pattern r hr
  rw [matchesWord_iff]
  constructor
  · intro h
    have hopw : opField w = opField r.pattern := opField_of_and w _ _ h hop
    refine ⟨hopw.symm, ?_⟩
    rw [hopw, ← hsub, ← BitVec.and_assoc, h, hzero]
  · rintro ⟨hopw, hz⟩
    rw [hmask, BitVec.and_or_distrib_left, hopw, hz, and_opMask, BitVec.or_zero, hpat, hopw]

/-! ### Decoding follows the rows (R86, R88) -/

/-- R82, R83: the command of the same row with its fields read from `w`. -/
def Instr.withFieldsOf (w : Word) : Instr → Instr
  | .start _ _ => .start (dirField w) (modeField w)
  | .final _ => .final (nbField w)
  | i => i

theorem dirField_eq_iff (w : Word) (d : Dir) : dirField w = d ↔ d.bit = w.getLsbD 4 :=
  ⟨fun h => h ▸ Dir.bit_ofBit _, fun h => by rw [dirField, ← h, Dir.ofBit_bit]⟩

theorem modeField_eq_iff (w : Word) (m : Mode) : modeField w = m ↔ m.bit = w.getLsbD 5 :=
  ⟨fun h => h ▸ Mode.bit_ofBit _, fun h => by rw [modeField, ← h, Mode.ofBit_bit]⟩

theorem decode_of_matchesWord {w : Word} {i : Instr} (h : (opcodeRow i).matchesWord w = true) :
    decode w = .ok (i.withFieldsOf w) := by
  rw [matchesWord_iff] at h
  cases i with
  | start d m =>
    change w &&& 0xFFFFFFCF#32 = 0x00000004#32 at h
    have hop : opField w = 0x4#4 := (opField_of_and w _ _ h (by decide)).trans (by decide)
    simp [decode, hop, h, Instr.withFieldsOf]
  | final nb =>
    change w &&& 0xFFFFF0FF#32 = 0x00000006#32 at h
    have hop : opField w = 0x6#4 := (opField_of_and w _ _ h (by decide)).trans (by decide)
    simp [decode, hop, h, Instr.withFieldsOf]
  | keyexp | encb | decb | block | abort =>
    obtain rfl := (and_fullMask w).symm.trans h
    rfl

/-- R88: a word decodes to a command iff it matches the command's row and has the command's fields. -/
theorem decode_eq_ok_iff (w : Word) (i : Instr) :
    decode w = .ok i ↔ (opcodeRow i).matchesWord w = true ∧ i.withFieldsOf w = i := by
  constructor
  · intro hdec
    obtain ⟨hw, h⟩ | ⟨hw, h⟩ | ⟨hw, h⟩ | ⟨hw, h⟩ | ⟨hw, h⟩ | ⟨hw, h⟩ | ⟨hw, h⟩ | ⟨h, -⟩ :=
      decode_cases w <;> cases h.symm.trans hdec <;> exact ⟨by simp [opcodeRow, hw], rfl⟩
  · rintro ⟨hrow, hfields⟩
    rw [decode_of_matchesWord hrow, hfields]

theorem opcodeRow_mem (i : Instr) : opcodeRow i ∈ opcodeTable := by
  cases i <;> simp [opcodeTable, opcodeRow]

theorem exists_opcodeRow_of_mem {r : OpcodeRow} (h : r ∈ opcodeTable) : ∃ i, opcodeRow i = r := by
  obtain ⟨i, -, hi⟩ := List.mem_map.mp (show r ∈ [Instr.keyexp, .encb, .decb, .start .encrypt .ecb,
    .block, .final 0, .abort].map opcodeRow from h)
  exact ⟨i, hi⟩

/-- R86: the legal words are those that match a row of the table. -/
theorem exists_decode_eq_ok_iff (w : Word) :
    (∃ i, decode w = .ok i) ↔ ∃ r ∈ opcodeTable, r.matchesWord w = true := by
  constructor
  · rintro ⟨i, hdec⟩
    exact ⟨_, opcodeRow_mem i, ((decode_eq_ok_iff w i).mp hdec).1⟩
  · rintro ⟨r, hr, hw⟩
    obtain ⟨i, rfl⟩ := exists_opcodeRow_of_mem hr
    exact ⟨_, decode_of_matchesWord hw⟩

/-- R86: the rows differ in their opcodes. -/
theorem opcodeTable_opcode_injective : ∀ r ∈ opcodeTable, ∀ q ∈ opcodeTable,
    opField r.pattern = opField q.pattern → r = q := by
  decide

theorem matchesWord_unique {w : Word} {r q : OpcodeRow} (hr : r ∈ opcodeTable)
    (hq : q ∈ opcodeTable) (hrw : r.matchesWord w = true) (hqw : q.matchesWord w = true) : r = q :=
  opcodeTable_opcode_injective r hr q hq
    (((matchesWord_iff_fields hr w).mp hrw).1.trans ((matchesWord_iff_fields hq w).mp hqw).1.symm)

/-! ### Illegal words (R85, R87) -/

/-- R85: the opcodes of the rows are 1 to 7. -/
theorem exists_row_with_opcode_iff : ∀ op : BitVec 4,
    (∃ r ∈ opcodeTable, opField r.pattern = op) ↔ ¬ (op = 0 ∨ 8 ≤ op.toNat) := by
  decide

theorem exists_decode_eq_error_iff (w : Word) :
    (∃ e, decode w = .error e) ↔ ¬ ∃ i, decode w = .ok i := by
  cases decode w <;> simp

/-- R84, R85, R87: a word is legal iff its opcode is one of the rows' and the bits that must be 0
are. -/
theorem exists_decode_eq_ok_iff_fields (w : Word) :
    (∃ i, decode w = .ok i) ↔
      ¬ (opField w = 0 ∨ 8 ≤ (opField w).toNat) ∧ w &&& mustBeZero (opField w) = 0#32 := by
  rw [exists_decode_eq_ok_iff, ← exists_row_with_opcode_iff]
  constructor
  · rintro ⟨r, hr, hw⟩
    obtain ⟨hop, hzero⟩ := (matchesWord_iff_fields hr w).mp hw
    exact ⟨⟨r, hr, hop⟩, hzero⟩
  · rintro ⟨⟨r, hr, hop⟩, hzero⟩
    exact ⟨r, hr, (matchesWord_iff_fields hr w).mpr ⟨hop, hzero⟩⟩

namespace Machine

theorem coreStep_illegal {s : State} {e : Illegal} (hbusy : s.busy = true)
    (h : decode s.pend = .error e) : coreStep s = .next (raiseError .illegalCommand s) := by
  simp [coreStep, hbusy, h]

theorem exec_final_decrypt_nb {s : State} {nb : Nat} (hopen : s.mopen = true)
    (hdir : s.mdir = .decrypt) (hnb : nb ≠ 0) :
    exec (.final nb) s = .next (raiseError .illegalCommand s) := by
  simp [exec, execFinal, hopen, hdir, hnb]

/-- Settles O4: the listed rows are the pairs of `opcodeTable`, whose opcodes differ. -/
theorem legalWordsMatchOneRow : Obligations.LegalWordsMatchOneRow := by
  unfold Obligations.LegalWordsMatchOneRow
  intro rows
  have hrows : rows = opcodeTable.map fun r => (r.pattern, r.mask) := rfl
  simp only [hrows, List.mem_map, exists_exists_and_eq_and]
  refine ⟨fun w => ?_, ?_, fun s nb hopen hdir hnb => exec_final_decrypt_nb hopen hdir hnb⟩
  · simp only [exists_decode_eq_ok_iff, matchesWord_iff]
  · rintro w _ ⟨r, hr, rfl⟩ _ ⟨q, hq, rfl⟩ hrw hqw
    rw [matchesWord_unique hr hq ((matchesWord_iff r w).mpr hrw) ((matchesWord_iff q w).mpr hqw)]

/-- Settles O5: each clause is `decode_eq_ok_iff` at one command, its row and fields written out. -/
theorem decodeFollowsThePatterns : Obligations.DecodeFollowsThePatterns := by
  intro w
  simp only [decode_eq_ok_iff, matchesWord_iff]
  simp [opcodeRow, Instr.withFieldsOf, dirField_eq_iff, modeField_eq_iff, nbField, eq_comm (α := Nat)]

/-- Settles O6: a word is legal iff its opcode is a row's and all bits that must be 0 are, and an
illegal one ends with `raiseError`. -/
theorem illegalWordsEndWithIllegalCommand : Obligations.IllegalWordsEndWithIllegalCommand := by
  refine ⟨fun w => ?_, fun s e hbusy he => coreStep_illegal hbusy he⟩
  rw [exists_decode_eq_error_iff, exists_decode_eq_ok_iff_fields, and_mustBeZero_iff]
  simp only [not_and_or, not_not, Classical.not_imp]
  rfl

end Machine

end Sys2Proof
end

section
/-! Proofs of the statements about the round transform: each layer byte by byte, the rounds of the
block cipher, their inverses, and the commands ENCB and DECB (spec/40_round_transform.md R101 to
R112). -/

namespace Sys2Proof.Machine

/-! ### Substitute and the round key (R101, R102, R107) -/

/-- R101: Substitute moves every byte value, since `3x + 7` and `x` differ in bit 0. -/
theorem sub_getElem_ne (b : Block) (i : Nat) (h : i < 16) : (sub b)[i] ≠ b[i] := by
  intro hfix
  have hnat := congrArg BitVec.toNat hfix
  simp [BitVec.toNat_add, BitVec.toNat_mul] at hnat
  omega

/-- R102: 171 is the inverse of 3 modulo 256. -/
theorem three_mul_171 : (3 * 171 : Byte) = 1 := rfl

theorem invSub_sub (b : Block) : invSub (sub b) = b := by
  apply Vector.ext
  intro i hi
  rw [invSub_getElem, sub_getElem, add_sub_cancel_right, mul_right_comm, three_mul_171, one_mul]

theorem sub_invSub (b : Block) : sub (invSub b) = b := by
  apply Vector.ext
  intro i hi
  rw [sub_getElem, invSub_getElem, mul_left_comm, three_mul_171, mul_one, sub_add_cancel]

theorem addRK_addRK (b k : Block) : addRK (addRK b k) k = b := xorBlock_xorBlock b k

/-- Settles O10: the byte formulas of Substitute and its inverse read as numbers. -/
theorem substituteAndKeyInjection : Obligations.SubstituteAndKeyInjection := by
  refine ⟨fun b i h => ⟨?_, sub_getElem_ne b i h, ?_⟩,
    fun b k => ⟨addRK_getElem b k, addRK_addRK b k⟩⟩
  · simp [BitVec.toNat_add, BitVec.toNat_mul]
  · simp [BitVec.toNat_sub, BitVec.toNat_mul]
    omega

/-! ### Permute (R103, R104) -/

theorem perm_getElem_row (b : Block) (r c : Nat) (hr : r < 4) (hc : c < 4) :
    (perm b)[4 * r + c] = b[4 * r + (c + r) % 4] := by
  have hdiv : (4 * r + c) / 4 = r := by omega
  have hmod : (4 * r + c) % 4 = c := by omega
  simp only [perm_getElem, hdiv, hmod]

theorem invPerm_getElem_row (b : Block) (r c : Nat) (hr : r < 4) (hc : c < 4) :
    (invPerm b)[4 * r + c] = b[4 * r + (c + (4 - r)) % 4] := by
  have hdiv : (4 * r + c) / 4 = r := by omega
  have hmod : (4 * r + c) % 4 = c := by omega
  have hsub : c + 4 - r = c + (4 - r) := Nat.add_sub_assoc hr.le c
  simp only [invPerm_getElem, hdiv, hmod, hsub]

/-- Settles O11: row and column of byte `4r + c` are `r` and `c`. -/
theorem permuteRotatesRows : Obligations.PermuteRotatesRows :=
  fun b r c hr hc => ⟨perm_getElem_row b r c hr hc, invPerm_getElem_row b r c hr hc⟩

/-- R100: a block is its four rows. -/
theorem block_ext_rows {a b : Block}
    (h : ∀ (r c : Nat) (_ : r < 4) (_ : c < 4), a[4 * r + c] = b[4 * r + c]) : a = b := by
  apply Vector.ext
  intro i hi
  have hrc := h (i / 4) (i % 4) (by omega) (by omega)
  simpa only [Nat.div_add_mod] using hrc

theorem invPerm_perm (b : Block) : invPerm (perm b) = b := by
  apply block_ext_rows
  intro r c hr hc
  have hback : ((c + (4 - r)) % 4 + r) % 4 = c := by omega
  rw [invPerm_getElem_row _ r c hr hc, perm_getElem_row b r _ hr (Nat.mod_lt _ (by decide))]
  simp only [hback]

theorem perm_invPerm (b : Block) : perm (invPerm b) = b := by
  apply block_ext_rows
  intro r c hr hc
  have hback : ((c + r) % 4 + (4 - r)) % 4 = c := by omega
  rw [perm_getElem_row _ r c hr hc, invPerm_getElem_row b r _ hr (Nat.mod_lt _ (by decide))]
  simp only [hback]

/-! ### Mix (R105, R106) -/

/-- Settles O12: the bytes of both layers, the wrap step of Mix reassociated. -/
theorem mixAndInverseMixFormulas : Obligations.MixAndInverseMixFormulas :=
  fun b => ⟨mix_getElem_lt b, (mix_getElem_last b).trans (add_assoc ..).symm,
    invMix_getElem_last b, invMix_getElem_lt b⟩

/-- InverseMix restores the bytes of the mixed block from 15 down to 0. -/
theorem invMix_mix (b : Block) : invMix (mix b) = b := by
  have hlast : (invMix (mix b))[15] = b[15] := by
    rw [invMix_getElem_last, mix_getElem_last, mix_getElem_lt b 0 (by decide), add_sub_cancel_right]
  have hdown (i : Nat) (h : i < 15) (hi : (invMix (mix b))[i + 1] = b[i + 1]) :
      (invMix (mix b))[i] = b[i] := by
    rw [invMix_getElem_lt _ i h, hi, mix_getElem_lt b i h, add_sub_cancel_right]
  apply Vector.ext
  intro i hi
  induction Nat.le_of_lt_succ hi using Nat.decreasingInduction with
  | self => exact hlast
  | of_succ i hi' ih => exact hdown i hi' (ih (by omega))

theorem mix_invMix (b : Block) : mix (invMix b) = b := by
  apply Vector.ext
  intro i hi
  obtain h | rfl := Nat.lt_succ_iff_lt_or_eq.mp hi
  · rw [mix_getElem_lt _ i h, invMix_getElem_lt b i h, sub_add_cancel]
  · rw [mix_getElem_last, invMix_getElem_last, invMix_getElem_lt b 0 (by decide), sub_add_cancel,
      sub_add_cancel]

/-! ### The rounds (R108, R109) -/

theorem roundNumbers_getElem (r : Nat) (h : r < roundNumbers.length) :
    roundNumbers[r] = ⟨r + 1, Nat.succ_lt_succ h⟩ := by
  change r < 10 at h
  interval_cases r <;> rfl

/-- R108: EncBlock up to and with round `n`. -/
def encAfter (rk : RoundKeys) (p : Block) (n : Nat) : Block :=
  (roundNumbers.take n).foldl (fun s r => encRound rk[r.val] s) (addRK p rk[0])

/-- R109: DecBlock from round 10 down to round `n + 1`. -/
def decDownTo (rk : RoundKeys) (c : Block) (n : Nat) : Block :=
  (roundNumbers.drop n).foldr (fun r s => decRound rk[r.val] s) c

theorem encAfter_zero (rk : RoundKeys) (p : Block) : encAfter rk p 0 = addRK p rk[0] := rfl

theorem encAfter_ten (rk : RoundKeys) (p : Block) : encAfter rk p 10 = encBlock rk p := rfl

theorem decDownTo_ten (rk : RoundKeys) (c : Block) : decDownTo rk c 10 = c := rfl

theorem decBlock_eq (rk : RoundKeys) (c : Block) :
    decBlock rk c = addRK (decDownTo rk c 0) rk[0] := rfl

theorem encAfter_succ (rk : RoundKeys) (p : Block) (r : Nat) (h : r < 10) :
    encAfter rk p (r + 1) = encRound rk[r + 1] (encAfter rk p r) := by
  have hlen : r < roundNumbers.length := h
  simp only [encAfter, List.take_succ_eq_append_getElem hlen, List.foldl_append, List.foldl_cons,
    List.foldl_nil, roundNumbers_getElem r hlen]

theorem decDownTo_eq_decRound (rk : RoundKeys) (c : Block) (r : Nat) (h : r < 10) :
    decDownTo rk c r = decRound rk[r + 1] (decDownTo rk c (r + 1)) := by
  have hlen : r < roundNumbers.length := h
  simp only [decDownTo, List.drop_eq_getElem_cons hlen, List.foldr_cons,
    roundNumbers_getElem r hlen]

/-- Settles O13: the states between the rounds are `encAfter` and `decDownTo`. -/
theorem blockCipherRounds : Obligations.BlockCipherRounds :=
  ⟨fun rk p => ⟨encAfter rk p, encAfter_zero rk p, encAfter_succ rk p, (encAfter_ten rk p).symm⟩,
    fun rk c => ⟨decDownTo rk c, decDownTo_ten rk c, decDownTo_eq_decRound rk c, decBlock_eq rk c⟩⟩

/-! ### The inverse laws (R110) -/

theorem decRound_encRound (k s : Block) : decRound k (encRound k s) = s := by
  rw [decRound, encRound, addRK_addRK, invMix_mix, invPerm_perm, invSub_sub]

theorem encRound_decRound (k s : Block) : encRound k (decRound k s) = s := by
  rw [encRound, decRound, sub_invSub, perm_invPerm, mix_invMix, addRK_addRK]

/-- Decrypting an encrypted block passes back through the states of its encryption. -/
theorem decDownTo_encBlock (rk : RoundKeys) (p : Block) (n : Nat) (hn : n ≤ 10) :
    decDownTo rk (encBlock rk p) n = encAfter rk p n := by
  induction hn using Nat.decreasingInduction with
  | self => rw [decDownTo_ten, encAfter_ten]
  | of_succ r hr ih =>
    rw [decDownTo_eq_decRound rk _ r hr, ih, encAfter_succ rk p r hr, decRound_encRound]

/-- Encrypting a decrypted block passes back through the states of its decryption. -/
theorem encAfter_decBlock (rk : RoundKeys) (c : Block) (n : Nat) (hn : n ≤ 10) :
    encAfter rk (decBlock rk c) n = decDownTo rk c n := by
  induction n with
  | zero => rw [encAfter_zero, decBlock_eq, addRK_addRK]
  | succ r ih =>
    rw [encAfter_succ rk _ r hn, ih (Nat.le_of_lt hn), decDownTo_eq_decRound rk c r hn,
      encRound_decRound]

theorem decBlock_encBlock (rk : RoundKeys) (b : Block) : decBlock rk (encBlock rk b) = b := by
  rw [decBlock_eq, decDownTo_encBlock rk b 0 (by decide), encAfter_zero, addRK_addRK]

theorem encBlock_decBlock (rk : RoundKeys) (b : Block) : encBlock rk (decBlock rk b) = b := by
  rw [← encAfter_ten, encAfter_decBlock rk b 10 le_rfl, decDownTo_ten]

/-- Settles O14: the rounds are inverted layer by layer, and the block cipher round by round. -/
theorem inverseLaws : Obligations.InverseLaws :=
  ⟨fun b => ⟨invSub_sub b, sub_invSub b⟩, fun b => ⟨invPerm_perm b, perm_invPerm b⟩,
    fun b => ⟨invMix_mix b, mix_invMix b⟩, addRK_addRK,
    fun rk b => ⟨decBlock_encBlock rk b, encBlock_decBlock rk b⟩⟩

/-! ### ENCB and DECB (R111, R112) -/

variable {s : State}

theorem singleBlock_of_keyv (b : Block) (h : s.keyv = true) :
    singleBlock b s = .next (complete (setPadlen 0 (emitBlock b s))) := if_pos h

theorem singleBlock_of_not_keyv (b : Block) (h : s.keyv = false) :
    singleBlock b s = .next (raiseError .noKey s) := by
  simp [singleBlock, h]

/-- R86, R87: a pending word with a command's opcode that does not match the command's row is
illegal, for no other row has that opcode. -/
theorem illegalWordsRejected_of_row (i : Instr) : IllegalWordsRejected
    (opField (opcodeRow i).pattern) fun w => (opcodeRow i).matchesWord w = true := by
  intro s hbusy hop hrow
  cases hdec : decode s.pend with
  | error e => exact coreStep_illegal hbusy hdec
  | ok j =>
    have hj := ((decode_eq_ok_iff _ _).mp hdec).1
    have hopj := ((matchesWord_iff_fields (opcodeRow_mem j) _).mp hj).1
    have hij := opcodeTable_opcode_injective _ (opcodeRow_mem j) _ (opcodeRow_mem i)
      (hopj.trans hop)
    exact absurd (hij ▸ hj) hrow

/-- R86: the same for a command whose row fixes every bit, so that it has one word. -/
theorem illegalWordsRejected_of_fullMask (i : Instr) (h : (opcodeRow i).mask = 0xFFFFFFFF#32) :
    IllegalWordsRejected (opField (opcodeRow i).pattern) (· = (opcodeRow i).pattern) := by
  simpa only [matchesWord_iff, h, and_fullMask] using illegalWordsRejected_of_row i

/-- Settles O17: ENCB is `singleBlock` of the encrypted DIN. -/
theorem encbEncryptsOneBlock : Obligations.EncbEncryptsOneBlock :=
  ⟨fun _ => singleBlock_of_keyv _, fun _ => singleBlock_of_not_keyv _,
    illegalWordsRejected_of_fullMask .encb rfl⟩

/-- Settles O18: DECB is `singleBlock` of the decrypted DIN. -/
theorem decbDecryptsOneBlock : Obligations.DecbDecryptsOneBlock :=
  ⟨fun _ => singleBlock_of_keyv _, fun _ => singleBlock_of_not_keyv _,
    illegalWordsRejected_of_fullMask .decb rfl⟩

end Sys2Proof.Machine
end

section
/-! Proofs of the statements about the key schedule and KEYEXP (spec/41_key_schedule.md R142,
R143). -/

namespace Sys2Proof.Machine

/-! ### KeyExpand (R142) -/

theorem digestInput_getElem_lt (k : Block) (i j : Nat) (h : j < 16) :
    (digestInput k i)[j] = k[j] :=
  Vector.getElem_push_lt h

theorem digestInput_getElem_last (k : Block) (i : Nat) :
    (digestInput k i)[16] = BitVec.ofNat 8 i :=
  Vector.getElem_push_eq

theorem keyExpand_zero (mk : Block) : (keyExpand mk)[0] = mk :=
  keyExpand_getElem mk 0 (by decide)

theorem keyExpand_succ (mk : Block) (i : Nat) (h : i < 10) :
    (keyExpand mk)[i + 1] = first16 (Config.d256 (digestInput (keyExpand mk)[i] i)) := by
  rw [keyExpand_getElem, keyExpand_getElem, expandedKey]

/-- Settles O19: the digest's message is `digestInput` of the round key before, and the next round
key its first 16 bytes. -/
theorem keyExpandFollowsTheDigest : Obligations.KeyExpandFollowsTheDigest := by
  refine fun mk => ⟨keyExpand_zero mk, fun i h => ⟨digestInput (keyExpand mk)[i] i,
    digestInput_getElem_lt _ i, digestInput_getElem_last _ i, fun j hj => ?_⟩⟩
  rw [keyExpand_succ mk i h, first16_getElem]

/-! ### KEYEXP (R143) -/

variable {s : State}

theorem execKeyexp_of_open (h : s.mopen = true) :
    execKeyexp s = .next (raiseError .sequence s) := if_pos h

theorem execKeyexp_of_not_open (h : s.mopen = false) :
    execKeyexp s =
      .next (complete (setPadlen 0 (noOutput (installKeys (keyExpand s.mk) s)))) := by
  simp [execKeyexp, h]

/-- Settles O20: KEYEXP by MOPEN; its row of the opcode table fixes every bit. -/
theorem keyexpExpandsTheMasterKey : Obligations.KeyexpExpandsTheMasterKey :=
  ⟨fun _ => execKeyexp_of_not_open, fun _ => execKeyexp_of_open,
    illegalWordsRejected_of_fullMask .keyexp rfl⟩

end Sys2Proof.Machine
end

section
/-! Proofs of the statements about padding and the message commands START, BLOCK, FINAL and ABORT
(spec/42_modes_padding.md R162, R170 to R176). -/

namespace Sys2Proof.Machine

/-! ### PadCheck and Unpad (R161, R162) -/

/-- R161: Unpad drops the last byte's value of bytes, when it is in 1..16 and each of these has it. -/
theorem unpad_eq_some_iff (data r : List Byte) :
    unpad data = some r ↔ ∃ n, (n = (data.getD (data.length - 1) 0).toNat ∧ 1 ≤ n ∧ n ≤ 16 ∧
      ∀ x ∈ data.drop (data.length - n), x.toNat = n) ∧ data.take (data.length - n) = r := by
  simp only [unpad, exists_eq_left, and_assoc]
  generalize (data.getD (data.length - 1) 0).toNat = n
  split_ifs with hrange hbytes
  · exact iff_of_false nofun fun ⟨hpos, hle, _⟩ => by omega
  · obtain ⟨x, hx, hne⟩ := List.any_eq_true.mp hbytes
    exact iff_of_false nofun fun ⟨_, _, hall, _⟩ => by simp [hall x hx] at hne
  · have hall : ∀ x ∈ data.drop (data.length - n), x.toNat = n := by simpa using hbytes
    have hin : 1 ≤ n ∧ n ≤ 16 := by omega
    simp only [hin, true_and, Option.some.injEq]
    exact (and_iff_right hall).symm

theorem getD_last_append_bytesOfBlock (l : List Byte) (q : Block) :
    (l ++ bytesOfBlock q).getD ((l ++ bytesOfBlock q).length - 1) 0 = q[15] := by
  simp [List.getD_eq_getElem?_getD, bytesOfBlock]

/-- The last `n` bytes of a string that ends with the block `q`, for `n` up to 16, lie in `q`. -/
theorem drop_append_bytesOfBlock (l : List Byte) (q : Block) {n : Nat} (hn : n ≤ 16) :
    (l ++ bytesOfBlock q).drop ((l ++ bytesOfBlock q).length - n) =
      (bytesOfBlock q).drop (16 - n) := by
  rw [List.length_append, bytesOfBlock_length, Nat.add_sub_assoc hn, List.drop_append]
  simp

theorem forall_mem_drop_bytesOfBlock (q : Block) (k : Nat) (p : Byte → Prop) :
    (∀ x ∈ (bytesOfBlock q).drop k, p x) ↔ ∀ (j : Nat) (_ : j < 16), k ≤ j → p q[j] := by
  simp only [List.mem_iff_getElem, bytesOfBlock]
  constructor
  · intro h j hj hk
    exact h _ ⟨j - k, by simp; omega, by simp [Nat.add_sub_cancel' hk]⟩
  · rintro h _ ⟨i, hi, rfl⟩
    simp at hi ⊢
    exact h _ (by omega) (by omega)

/-- R162: Unpad of a string fails or succeeds as PadCheck does on its last block. -/
theorem unpad_append_bytesOfBlock (l : List Byte) (q : Block) :
    unpad (l ++ bytesOfBlock q) =
      (padCheck q).map fun n => (l ++ bytesOfBlock q).take ((l ++ bytesOfBlock q).length - n) := by
  ext r
  rw [unpad_eq_some_iff, Option.map_eq_some_iff]
  refine exists_congr fun n => and_congr_left fun _ => ?_
  rw [padCheck_eq_some_iff, getD_last_append_bytesOfBlock]
  refine and_congr_right fun hlast => and_congr_right fun _ => and_congr_right fun hn => ?_
  rw [drop_append_bytesOfBlock l q hn, forall_mem_drop_bytesOfBlock]
  simp only [hlast, BitVec.toNat_inj]

theorem fromBlocks_concat (bs : List Block) (q : Block) :
    fromBlocks (bs ++ [q]) = fromBlocks bs ++ bytesOfBlock q := by
  simp [fromBlocks]

/-- Settles O23: both checks ask the same of the last block's bytes. -/
theorem padCheckIsUnpadOfTheLastBlock : Obligations.PadCheckIsUnpadOfTheLastBlock := by
  refine ⟨padCheck_eq_some_iff, fun bs q => ?_⟩
  have hlen : (fromBlocks (bs ++ [q])).length = 16 * (bs.length + 1) := by simp [Nat.mul_add]
  rw [← hlen, fromBlocks_concat, unpad_append_bytesOfBlock]

/-! ### START (R170) -/

variable {s : State}

theorem checkStart_of_open (o : State) (h : s.mopen = true) :
    checkStart o s = .next (raiseError .sequence s) := if_pos h

theorem checkStart_of_not_keyv (o : State) (hopen : s.mopen = false) (hkey : s.keyv = false) :
    checkStart o s = .next (raiseError .noKey s) := by
  simp [checkStart, hopen, hkey]

theorem checkStart_of_keyv (o : State) (hopen : s.mopen = false) (hkey : s.keyv = true) :
    checkStart o s = .next (complete (setPadlen 0 o)) := by
  simp [checkStart, hopen, hkey]

/-- R170: but for a CBC encryption, the message opens without output, and only a CBC decryption
waits for its IV block. -/
theorem exec_start_of_no_draw {d : Dir} {m : Mode} (h : ¬ (d = .encrypt ∧ m = .cbc)) :
    exec (.start d m) s =
      checkStart (noOutput (openMessage d m (m == .cbc) Block.zero s)) s := by
  cases d <;> cases m
  · rfl
  · exact absurd ⟨rfl, rfl⟩ h
  · rfl
  · rfl

/-- R170, R171: a CBC encryption opens its message with the offered value, which is drawn. -/
theorem exec_start_of_offer {iv : Block} (h : s.env.entropy = some iv) :
    exec (.start .encrypt .cbc) s =
      checkStart (emitBlock iv (openMessage .encrypt .cbc false iv (offerEntropy none s))) s := by
  simp [exec, execStart, startCbcEncrypt, drawIV, h]

/-- Settles O24: each form is `checkStart` of its opened message, and `checkStart` asks MOPEN, then
KEYV. -/
theorem startOpensTheMessage : Obligations.StartOpensTheMessage := by
  refine ⟨fun s hopen => ⟨fun d m hdm => ?_, fun iv hiv => ⟨s.env.entropy, ?_⟩⟩,
    fun s hopen hkey => ⟨fun d m hdm => ?_, fun iv hiv => ⟨s.env.entropy, ?_⟩⟩,
    fun s hopen hkey => ⟨fun d => ?_, ?_, fun iv hiv => ⟨none, ?_⟩⟩, ?_⟩
  · exact (exec_start_of_no_draw hdm).trans (checkStart_of_open _ hopen)
  · exact (exec_start_of_offer hiv).trans (checkStart_of_open _ hopen)
  · exact (exec_start_of_no_draw hdm).trans (checkStart_of_not_keyv _ hopen hkey)
  · exact (exec_start_of_offer hiv).trans (checkStart_of_not_keyv _ hopen hkey)
  · exact (exec_start_of_no_draw (by simp)).trans (checkStart_of_keyv _ hopen hkey)
  · exact (exec_start_of_no_draw (by simp)).trans (checkStart_of_keyv _ hopen hkey)
  · exact (exec_start_of_offer hiv).trans (checkStart_of_keyv _ hopen hkey)
  · have hrow := illegalWordsRejected_of_row (.start .encrypt .ecb)
    simp only [matchesWord_iff] at hrow
    exact hrow

/-! ### BLOCK (R172) -/

/-- The state a BLOCK with output leaves, field by field. -/
theorem blockDone_eq (out chain : Block) (s : State) :
    blockDone out chain s = .next { s with
      dout := out, chain := chain, outv := true, padlen := 0, busy := false, done := true,
      err := .ok } := rfl

theorem exec_block_of_not_open (h : s.mopen = false) :
    exec .block s = .next (raiseError .sequence s) := by
  simp [exec, execBlock, h]

theorem exec_block_encrypt_ecb (hopen : s.mopen = true) (hdir : s.mdir = .encrypt)
    (hmode : s.mmode = .ecb) (hiv : s.ivpend = false) :
    exec .block s = blockDone (encBlock s.rk s.din) s.chain s := by
  simp [exec, execBlock, hopen, hdir, hmode, hiv]

theorem exec_block_encrypt_cbc (hopen : s.mopen = true) (hdir : s.mdir = .encrypt)
    (hmode : s.mmode = .cbc) (hiv : s.ivpend = false) :
    exec .block s = blockDone (encBlock s.rk (xorBlock s.din s.chain))
      (encBlock s.rk (xorBlock s.din s.chain)) s := by
  simp [exec, execBlock, hopen, hdir, hmode, hiv]

theorem exec_block_decrypt_ecb (hopen : s.mopen = true) (hdir : s.mdir = .decrypt)
    (hmode : s.mmode = .ecb) (hiv : s.ivpend = false) :
    exec .block s = blockDone (decBlock s.rk s.din) s.chain s := by
  simp [exec, execBlock, hopen, hdir, hmode, hiv]

theorem exec_block_decrypt_cbc_loads_iv (hopen : s.mopen = true) (hdir : s.mdir = .decrypt)
    (hmode : s.mmode = .cbc) (hiv : s.ivpend = true) : exec .block s = blockLoadIV s := by
  simp [exec, execBlock, hopen, hdir, hmode, hiv]

theorem exec_block_decrypt_cbc (hopen : s.mopen = true) (hdir : s.mdir = .decrypt)
    (hmode : s.mmode = .cbc) (hiv : s.ivpend = false) :
    exec .block s = blockDone (xorBlock (decBlock s.rk s.din) s.chain) s.din s := by
  simp [exec, execBlock, hopen, hdir, hmode, hiv]

/-- Settles O26: BLOCK by MOPEN, then by the context; its row of the opcode table fixes every bit. -/
theorem blockProcessesOneBlock : Obligations.BlockProcessesOneBlock := by
  refine ⟨fun s => exec_block_of_not_open, fun s hopen => ⟨?_, ?_, ?_, ?_, ?_⟩,
    illegalWordsRejected_of_fullMask .block rfl⟩
  · exact exec_block_encrypt_ecb hopen
  · intro hdir hmode hiv
    rw [exec_block_encrypt_cbc hopen hdir hmode hiv, blockDone_eq]
  · exact exec_block_decrypt_ecb hopen
  · exact exec_block_decrypt_cbc_loads_iv hopen
  · exact exec_block_decrypt_cbc hopen

/-! ### FINAL (R173 to R175) -/

theorem chained_eq_ite (b : Block) (s : State) :
    chained b s = if s.mmode = .cbc then xorBlock b s.chain else b := by
  cases h : s.mmode <;> simp [chained, h]

theorem exec_final_encrypt (nb : Nat) (hopen : s.mopen = true) (hdir : s.mdir = .encrypt) :
    exec (.final nb) s = finalEnc nb s := by
  simp [exec, execFinal, hopen, hdir]

theorem exec_final_decrypt_zero (hopen : s.mopen = true) (hdir : s.mdir = .decrypt) :
    exec (.final 0) s = finalDec s := by
  simp [exec, execFinal, hopen, hdir]

theorem finalDec_of_ivpend (h : s.ivpend = true) :
    finalDec s = .next (raiseError .truncatedCiphertext (zeroOutput (closeMessage s))) := if_pos h

theorem finalDec_of_good_padding {n : Nat} (hiv : s.ivpend = false)
    (hpad : padCheck (chained (decBlock s.rk s.din) s) = some n) :
    finalDec s = .next (complete (setPadlen n
      (emitBlock (chained (decBlock s.rk s.din) s) (closeMessage s)))) := by
  simp [finalDec, hiv, hpad]

theorem finalDec_of_bad_padding (hiv : s.ivpend = false)
    (hpad : padCheck (chained (decBlock s.rk s.din) s) = none) :
    finalDec s = .next (raiseError .invalidPadding (zeroOutput (closeMessage s))) := by
  simp [finalDec, hiv, hpad]

/-- Settles O28: the block is `finalChunk`, whose pad length fits a byte. -/
theorem finalEncryptPadsAndCloses : Obligations.FinalEncryptPadsAndCloses := by
  refine fun s nb _ hopen hdir => ⟨finalChunk nb s.din,
    fun i h hlt => finalChunk_getElem_lt nb s.din i h hlt, fun i h hge => ?_, ?_⟩
  · rw [finalChunk_getElem_ge nb s.din i h hge, BitVec.toNat_ofNat]
    exact Nat.mod_eq_of_lt (by omega)
  · rw [exec_final_encrypt nb hopen hdir, ← chained_eq_ite]
    rfl

/-- Settles O29: the outcomes of `finalDec`, by IVPEND and then by PadCheck of the decrypted block. -/
theorem finalDecryptChecksPadding : Obligations.FinalDecryptChecksPadding := by
  intro s hopen hdir
  rw [exec_final_decrypt_zero hopen hdir]
  simp only [← chained_eq_ite]
  exact ⟨finalDec_of_ivpend, fun hiv _ => finalDec_of_good_padding hiv, finalDec_of_bad_padding⟩

/-! ### ABORT (R176) -/

/-- Settles O31: ABORT closes the message and zeroes the output in every state. -/
theorem abortClosesWithoutOutput : Obligations.AbortClosesWithoutOutput :=
  ⟨fun _ => rfl, illegalWordsRejected_of_fullMask .abort rfl⟩

end Sys2Proof.Machine
end

section
/-! Proof of the statement about the interrupt line (spec/60_exceptions.md R247, R248). -/

namespace Sys2Proof.Machine

variable {s t : State}

/-! ### A completion sets DONE and leaves IE (R25, R29, R244, R245) -/

theorem exec_completion_done {i : Instr} (hbusy : s.busy = true) (h : exec i s = .next t)
    (hend : t.busy = false) : t.done = true := by
  obtain ⟨-, -, rfl⟩ | ⟨c, -, rfl⟩ | ⟨-, hdone, -⟩ := exec_waits_rejects_or_ends h
  · simp [hbusy] at hend
  · rfl
  · exact hdone

theorem coreStep_completion_done (hbusy : s.busy = true) (h : coreStep s = .next t)
    (hend : t.busy = false) : t.done = true := by
  obtain ⟨hidle, -⟩ | ⟨-, -, rfl⟩ | ⟨-, i, -, hexec⟩ := coreStep_cases h
  · simp [hbusy] at hidle
  · rfl
  · exact exec_completion_done hbusy hexec hend

theorem coreStep_ie (h : coreStep s = .next t) : t.ie = s.ie := by
  obtain ⟨-, rfl⟩ | ⟨-, -, rfl⟩ | ⟨-, i, -, hexec⟩ := coreStep_cases h
  · rfl
  · rfl
  · exact (exec_keeps_host_state hexec).1

/-! ### The interrupt line (R247, R248) -/

theorem irq_of_done (h : s.done = true) : irq s = s.ie := by
  rw [irq, h, Bool.and_true]

theorem irq_of_not_done (h : s.done = false) : irq s = false := by
  rw [irq, h, Bool.and_false]

theorem irq_resetCore (s : State) : irq (resetCore s) = false :=
  irq_of_not_done (resetCore_done s)

theorem irq_writeReg_status {v : Word} (s : State) (h : v.getLsbD 1 = true) :
    irq (writeReg .status v s) = false :=
  irq_of_not_done (by simp [writeReg, h])

/-- R26: a CTRL write with bit 1 is a soft reset. -/
theorem writeReg_ctrl_of_srst {v : Word} (s : State) (h : v.getLsbD 1 = true) :
    writeReg .ctrl v s = resetCore s := if_pos h

/-- Settles O40: IRQ is IE where DONE is set, as every completion leaves it, and 0 where DONE is
cleared, as by a STATUS write with bit 1 and by both resets. -/
theorem interruptLine : Obligations.InterruptLine := by
  refine ⟨fun s => rfl, fun s t hbusy h hend => ?_, fun s v hv => ⟨irq_writeReg_status s hv, ?_⟩,
    irq_resetCore⟩
  · rw [irq_of_done (coreStep_completion_done hbusy h hend), coreStep_ie h]
  · rw [writeReg_ctrl_of_srst s hv, irq_resetCore]

end Sys2Proof.Machine
end

section
/-! Proofs of the statements that decoding and encoding are inverse (spec/30_encoding.md R86 to R90). -/

namespace Sys2Proof

/-- R86: the word of a well-formed command matches the command's row. -/
theorem encode_matchesWord (i : Instr) (h : i.wellFormed = true) :
    (opcodeRow i).matchesWord (encode i) = true := by
  cases i with
  | keyexp => exact Laws.EncodesItsRow.keyexp h
  | encb => exact Laws.EncodesItsRow.encb h
  | decb => exact Laws.EncodesItsRow.decb h
  | start d m => exact Laws.EncodesItsRow.start d m h
  | block => exact Laws.EncodesItsRow.block h
  | final nb => exact Laws.EncodesItsRow.final nb h
  | abort => exact Laws.EncodesItsRow.abort h

/-- R82, R83: the word of a well-formed command carries the command's operands. -/
theorem withFieldsOf_encode (i : Instr) (h : i.wellFormed = true) :
    i.withFieldsOf (encode i) = i := by
  cases i with
  | start d m => cases d <;> cases m <;> rfl
  | final nb =>
    have hnb : nb < 16 := of_decide_eq_true h
    interval_cases nb <;> rfl
  | keyexp | encb | decb | block | abort => rfl

/-- R86, R88: decoding inverts encoding. -/
theorem decode_encode {i : Instr} (h : i.wellFormed = true) : decode (encode i) = .ok i :=
  (decode_eq_ok_iff _ i).mpr ⟨encode_matchesWord i h, withFieldsOf_encode i h⟩

/-- Settles O2: the word matches the command's row and carries its operands. -/
theorem decodeEncodeRoundTrip : Obligations.DecodeEncodeRoundTrip :=
  fun _ => decode_encode

/-- R83: the operands read from a word fit their fields. -/
theorem wellFormed_of_withFieldsOf {w : Word} {i : Instr} (h : i.withFieldsOf w = i) :
    i.wellFormed = true := by
  cases i with
  | final nb =>
    have hnb : nbField w = nb := Instr.final.inj h
    exact decide_eq_true (hnb ▸ nbField_lt w)
  | start d m => rfl
  | keyexp | encb | decb | block | abort => rfl

/-- R86: a word that matches a command's row is the word of the command with its operands. -/
theorem encode_withFieldsOf {w : Word} {i : Instr} (h : (opcodeRow i).matchesWord w = true) :
    encode (i.withFieldsOf w) = w := by
  rw [matchesWord_iff] at h
  cases i with
  | start d m => exact eq_encode_start w h
  | final nb => exact eq_encode_final w h
  | keyexp | encb | decb | block | abort => exact h.symm.trans (and_fullMask w)

/-- Settles O3: a legal word is its row's pattern with the command's operands in their fields. -/
theorem encodeOfDecodedWord : Obligations.EncodeOfDecodedWord := by
  intro w i hdec
  obtain ⟨hrow, hfields⟩ := (decode_eq_ok_iff w i).mp hdec
  have henc := encode_withFieldsOf hrow
  rw [hfields] at henc
  exact ⟨wellFormed_of_withFieldsOf hfields, henc⟩

/-- Settles O1: each word is decoded by evaluation. -/
theorem sampleWordsDecode : Obligations.SampleWordsDecode := by
  unfold Obligations.SampleWordsDecode
  decide

end Sys2Proof
end

section
/-! Proofs of the statements about what a command answers: where it faults (spec/42_modes_padding.md
R172), when the completion step is enabled and that it ends the command (spec/70_reset_and_hazards.md
R281, R289). -/

namespace Sys2Proof.Machine

variable {s t : State}

/-! ### Every command answers a next state but BLOCK out of its contexts (R172) -/

theorem checkStart_answers (o s : State) : ∃ t, checkStart o s = .next t := by
  cases hopen : s.mopen
  · cases hkey : s.keyv
    · exact ⟨_, checkStart_of_not_keyv o hopen hkey⟩
    · exact ⟨_, checkStart_of_keyv o hopen hkey⟩
  · exact ⟨_, checkStart_of_open o hopen⟩

theorem singleBlock_answers (b : Block) (s : State) : ∃ t, singleBlock b s = .next t := by
  cases hkey : s.keyv
  · exact ⟨_, singleBlock_of_not_keyv b hkey⟩
  · exact ⟨_, singleBlock_of_keyv b hkey⟩

theorem execKeyexp_answers (s : State) : ∃ t, execKeyexp s = .next t := by
  cases hopen : s.mopen
  · exact ⟨_, execKeyexp_of_not_open hopen⟩
  · exact ⟨_, execKeyexp_of_open hopen⟩

/-- R171: while nothing is offered, a CBC-encrypting START leaves the state as it is. -/
theorem exec_start_of_no_offer (h : s.env.entropy = none) :
    exec (.start .encrypt .cbc) s = .next s := by
  simp [exec, execStart, startCbcEncrypt, drawIV, h]

theorem exec_start_answers (d : Dir) (m : Mode) (s : State) :
    ∃ t, exec (.start d m) s = .next t := by
  by_cases hdm : d = .encrypt ∧ m = .cbc
  · obtain ⟨rfl, rfl⟩ := hdm
    cases hoffer : s.env.entropy with
    | none => exact ⟨s, exec_start_of_no_offer hoffer⟩
    | some iv => exact exec_start_of_offer hoffer ▸ checkStart_answers _ s
  · exact exec_start_of_no_draw hdm ▸ checkStart_answers _ s

theorem finalDec_answers (s : State) : ∃ t, finalDec s = .next t := by
  cases hiv : s.ivpend
  · cases hpad : padCheck (chained (decBlock s.rk s.din) s) with
    | none => exact ⟨_, finalDec_of_bad_padding hiv hpad⟩
    | some n => exact ⟨_, finalDec_of_good_padding hiv hpad⟩
  · exact ⟨_, finalDec_of_ivpend hiv⟩

theorem exec_final_of_not_open (nb : Nat) (h : s.mopen = false) :
    exec (.final nb) s = .next (raiseError .sequence s) := by
  simp [exec, execFinal, h]

theorem exec_final_answers (nb : Nat) (s : State) : ∃ t, exec (.final nb) s = .next t := by
  cases hopen : s.mopen
  · exact ⟨_, exec_final_of_not_open nb hopen⟩
  · cases hdir : s.mdir with
    | encrypt => exact ⟨_, exec_final_encrypt nb hopen hdir⟩
    | decrypt =>
      by_cases hnb : nb = 0
      · subst hnb
        exact exec_final_decrypt_zero hopen hdir ▸ finalDec_answers s
      · exact ⟨_, exec_final_decrypt_nb hopen hdir hnb⟩

/-- R172: the message contexts BLOCK has no case for. -/
def OutOfContext (s : State) : Prop :=
  s.mopen = true ∧ s.ivpend = true ∧ (s.mdir = .encrypt ∨ s.mmode = .ecb)

theorem exec_block_of_outOfContext (h : OutOfContext s) :
    exec .block s = .fault .blockContext := by
  obtain ⟨hopen, hiv, hdir | hmode⟩ := h
  · cases hmode : s.mmode <;> simp [exec, execBlock, hopen, hdir, hmode, hiv]
  · cases hdir : s.mdir <;> simp [exec, execBlock, hopen, hdir, hmode, hiv]

theorem exec_block_answers (h : ¬ OutOfContext s) : ∃ t, exec .block s = .next t := by
  cases hopen : s.mopen
  · exact ⟨_, exec_block_of_not_open hopen⟩
  · cases hiv : s.ivpend
    · cases hdir : s.mdir <;> cases hmode : s.mmode
      · exact ⟨_, exec_block_encrypt_ecb hopen hdir hmode hiv⟩
      · exact ⟨_, exec_block_encrypt_cbc hopen hdir hmode hiv⟩
      · exact ⟨_, exec_block_decrypt_ecb hopen hdir hmode hiv⟩
      · exact ⟨_, exec_block_decrypt_cbc hopen hdir hmode hiv⟩
    · cases hdir : s.mdir <;> cases hmode : s.mmode
      · exact absurd ⟨hopen, hiv, .inl hdir⟩ h
      · exact absurd ⟨hopen, hiv, .inl hdir⟩ h
      · exact absurd ⟨hopen, hiv, .inr hmode⟩ h
      · exact ⟨_, exec_block_decrypt_cbc_loads_iv hopen hdir hmode hiv⟩

/-- Every command has a next state in every message context R172 lists. -/
theorem exec_answers (i : Instr) (h : ¬ (i = .block ∧ OutOfContext s)) :
    ∃ t, exec i s = .next t := by
  cases i with
  | keyexp => exact execKeyexp_answers s
  | encb => exact singleBlock_answers _ s
  | decb => exact singleBlock_answers _ s
  | start d m => exact exec_start_answers d m s
  | block => exact exec_block_answers fun hctx => h ⟨rfl, hctx⟩
  | final nb => exact exec_final_answers nb s
  | abort => exact ⟨_, rfl⟩

/-- Settles O27: out of its contexts BLOCK faults, and else every command answers a next state. -/
theorem onlyBlockOutOfContextFaults : Obligations.OnlyBlockOutOfContextFaults := by
  intro i s f
  constructor
  · intro hfault
    by_cases hctx : i = .block ∧ OutOfContext s
    · obtain ⟨rfl, hctx⟩ := hctx
      have hf : Fault.blockContext = f :=
        Host.Outcome.fault.inj ((exec_block_of_outOfContext hctx).symm.trans hfault)
      exact ⟨hf.symm, rfl, hctx⟩
    · obtain ⟨t, hnext⟩ := exec_answers i hctx
      cases hnext.symm.trans hfault
  · rintro ⟨rfl, rfl, hctx⟩
    exact exec_block_of_outOfContext hctx

/-! ### The completion step (R281) -/

/-- R44 item 3: a legal state is in a context BLOCK has a case for. -/
theorem not_outOfContext (h : IvpendContext s) : ¬ OutOfContext s := by
  rintro ⟨-, hiv, hctx⟩
  obtain ⟨-, hdir, hmode⟩ := h hiv
  simp [hdir, hmode] at hctx

theorem coreStep_of_idle (h : s.busy = false) : coreStep s = .next s := by
  simp [coreStep, h]

theorem coreStep_of_decode {i : Instr} (hbusy : s.busy = true) (h : decode s.pend = .ok i) :
    coreStep s = exec i s := by
  simp [coreStep, hbusy, h]

/-- R172: the core's turn in a legal state always has a next state. -/
theorem coreStep_answers (h : IvpendContext s) : ∃ t, coreStep s = .next t := by
  cases hbusy : s.busy
  · exact ⟨s, coreStep_of_idle hbusy⟩
  · cases hdec : decode s.pend with
    | error e => exact ⟨_, coreStep_illegal hbusy hdec⟩
    | ok i =>
      rw [coreStep_of_decode hbusy hdec]
      exact exec_answers i fun hctx => not_outOfContext h hctx.2

/-- R281: a completion step either ends the command, with DONE set, or is a CBC-encrypting START's
wait for an offer, which changes nothing. -/
theorem coreStep_ends_or_waits (hbusy : s.busy = true) (h : coreStep s = .next t) :
    (t.busy = false ∧ t.done = true) ∨
    (decode s.pend = .ok (.start .encrypt .cbc) ∧ s.env.entropy = none ∧ t = s) := by
  obtain ⟨hidle, -⟩ | ⟨-, -, rfl⟩ | ⟨-, i, hdec, hexec⟩ := coreStep_cases h
  · simp [hbusy] at hidle
  · exact .inl ⟨rfl, rfl⟩
  · obtain ⟨rfl, hoffer, rfl⟩ | ⟨c, -, rfl⟩ | ⟨hend, hdone, -⟩ := exec_waits_rejects_or_ends hexec
    · exact .inr ⟨hdec, hoffer, rfl⟩
    · exact .inl ⟨rfl, rfl⟩
    · exact .inl ⟨hend, hdone⟩

theorem coreStep_of_awaiting (hbusy : s.busy = true)
    (hdec : decode s.pend = .ok (.start .encrypt .cbc)) (hoffer : s.env.entropy = none) :
    coreStep s = .next s :=
  (coreStep_of_decode hbusy hdec).trans (exec_start_of_no_offer hoffer)

theorem toOption_eq_some_iff {ε α : Type} (x : Except ε α) (a : α) :
    x.toOption = some a ↔ x = .ok a := by
  cases x <;> simp [Except.toOption]

theorem coreEnabled_eq_false_iff (h : s.busy = true) :
    coreEnabled s = false ↔
      decode s.pend = .ok (.start .encrypt .cbc) ∧ s.env.entropy = none := by
  simp [coreEnabled, awaitsEntropy, h, toOption_eq_some_iff]

/-- Settles O8: a legal completion step has a next state, which is the end of the command unless the
command waits for its IV. -/
theorem enabledCompletionEndsTheCommand : Obligations.EnabledCompletionEndsTheCommand := by
  rintro s ⟨-, -, hiv, -⟩ hbusy
  rw [← Bool.not_eq_false, coreEnabled_eq_false_iff hbusy]
  refine ⟨Iff.rfl, fun henabled => ?_,
    fun ⟨hdec, hoffer⟩ => coreStep_of_awaiting hbusy hdec hoffer⟩
  obtain ⟨t, ht⟩ := coreStep_answers hiv
  obtain hend | ⟨hdec, hoffer, -⟩ := coreStep_ends_or_waits hbusy ht
  · exact ⟨t, ht, hend⟩
  · exact absurd ⟨hdec, hoffer⟩ henabled

/-- Settles O9: with an offer the pending START is `checkStart` of the opened message. -/
theorem entropyStallUntilOfferOrReset : Obligations.EntropyStallUntilOfferOrReset := by
  intro s hbusy hdec hoffer
  refine ⟨coreStep_of_awaiting hbusy hdec hoffer, ?_, fun iv => ?_⟩
  · rw [writeReg_ctrl_of_srst s (by decide)]
    rfl
  · rw [coreStep_of_decode (s := offerEntropy (some iv) s) hbusy hdec,
      exec_start_of_offer (iv := iv) rfl]
    obtain ⟨t, ht⟩ := checkStart_answers (emitBlock iv (openMessage .encrypt .cbc false iv
      (offerEntropy none (offerEntropy (some iv) s)))) (offerEntropy (some iv) s)
    refine ⟨t, ht, ?_⟩
    obtain ⟨hopen, rfl⟩ | ⟨hopen, hkey, rfl⟩ | ⟨hopen, hkey, rfl⟩ := checkStart_cases ht <;>
      rw [offerEntropy_mopen] at hopen
    · simp [hopen]
    · rw [offerEntropy_keyv] at hkey
      simp [hopen, hkey]
    · rw [offerEntropy_keyv] at hkey
      simp [hopen, hkey]

end Sys2Proof.Machine
end

section
/-! Proofs of the whole-machine statements: the invariants of spec/10_state.md R44 hold at reset and
every step keeps them, and a legal state never stops. -/

namespace Sys2Proof.Machine

variable {s t : State}

/-! ### What a step can do to the core -/

/-- R7, R282: a step moves only what stands outside the core, or completes a command, or resets the
core, or is a host write of a register that is no reset. -/
theorem step_effects (h : step s = .next t) :
    (∃ e, t = { s with env := e }) ∨
    (CompletionStep s ∧ t.busy = false ∧ ∃ ts, coreStep (setTurns ts s) = .next t) ∨
    (ResetStep s ∧ ∃ e, t = { State.reset with env := e }) ∨
    (∃ r v e, HostWrites r v s ∧ ¬ (r = .ctrl ∧ v.getLsbD 1 = true) ∧
      t = writeReg r v { s with env := e }) := by
  have ⟨ts, hts⟩ := takeTurn_eq s
  obtain ⟨hturn, hcore⟩ | ⟨hturn, hhost⟩ | ⟨o, -, rfl⟩ | ⟨hturn, rfl⟩ := step_cases h
  · rw [hts] at hcore
    obtain hbusy | hbusy := Bool.eq_false_or_eq_true s.busy
    · obtain ⟨hend, -⟩ | ⟨-, -, rfl⟩ := coreStep_ends_or_waits (s := setTurns ts s) hbusy hcore
      · exact .inr (.inl ⟨⟨hturn, hbusy⟩, hend, ts, hcore⟩)
      · exact .inl ⟨_, rfl⟩
    · have hidle := coreStep_of_idle (s := setTurns ts s) hbusy
      obtain rfl := Host.Outcome.next.inj (hidle.symm.trans hcore)
      exact .inl ⟨_, rfl⟩
  · rw [hts] at hhost
    obtain rfl | ⟨_, rest, -, rfl, -⟩ | ⟨a, v, rest, r, hprog, hreg, rfl⟩ |
      ⟨a, rest, r, -, -, rfl⟩ := hostStep_cases hhost
    · exact .inl ⟨_, rfl⟩
    · exact .inl ⟨_, rfl⟩
    · have hwrite : HostWrites r v s := ⟨hturn, a, rest, hprog, hreg⟩
      by_cases hreset : r = .ctrl ∧ v.getLsbD 1 = true
      · obtain ⟨rfl, hv⟩ := hreset
        exact .inr (.inr (.inl ⟨.inr ⟨v, hv, hwrite⟩, _, writeReg_ctrl_of_srst _ hv⟩))
      · exact .inr (.inr (.inr ⟨r, v, _, hwrite, hreset, rfl⟩))
    · exact .inl ⟨_, rfl⟩
  · exact .inl ⟨_, by rw [hts]; rfl⟩
  · exact .inr (.inr (.inl ⟨.inl hturn, _, rfl⟩))

/-! ### The invariants (R44) -/

/-- R44 items 1 to 4, on the message context alone. -/
def ContextInv (s : State) : Prop :=
  ClosedContext s ∧ OpenHasKey s ∧ IvpendContext s ∧ EcbChainZero s

theorem State.Inv.contextInv (h : s.Inv) : ContextInv s :=
  let ⟨hclosed, hkey, hiv, hecb, _⟩ := h
  ⟨hclosed, hkey, hiv, hecb⟩

theorem ContextInv.inv (h : ContextInv s) (hlen : PadlenRange s) (hctx : PadlenContext s) : s.Inv :=
  let ⟨hclosed, hkey, hiv, hecb⟩ := h
  ⟨hclosed, hkey, hiv, hecb, hlen, hctx⟩

theorem inv_of_padlen_zero (h : ContextInv s) (hlen : s.padlen = 0) : s.Inv :=
  h.inv (by simp [hlen]) fun hne => absurd hlen hne

theorem contextInv_closeMessage (s : State) : ContextInv (closeMessage s) :=
  ⟨fun _ => ⟨rfl, rfl, rfl, rfl⟩, nofun, nofun, nofun⟩

/-- R170: a message that START opens. -/
theorem contextInv_openMessage {d : Dir} {m : Mode} {p : Bool} {c : Block} (hkey : s.keyv = true)
    (hiv : p = true → d = .decrypt ∧ m = .cbc) (hchain : m = .ecb → c = Block.zero) :
    ContextInv (openMessage d m p c s) :=
  ⟨nofun, fun _ => hkey, fun hp => ⟨rfl, hiv hp⟩, fun _ => hchain⟩

theorem ContextInv.installKeys (h : ContextInv s) (rk : RoundKeys) : ContextInv (installKeys rk s) :=
  let ⟨hclosed, _, hiv, hecb⟩ := h
  ⟨hclosed, fun _ => rfl, hiv, hecb⟩

/-- R172: an open message after a BLOCK, which touches CHAIN in CBC only. -/
theorem ContextInv.setChain (h : ContextInv s) {c : Block} (hopen : s.mopen = true)
    (hecb : s.mmode = .ecb → c = s.chain) : ContextInv (setChain c s) := by
  obtain ⟨-, hkey, hiv, hchain⟩ := h
  refine ⟨fun hclosed => ?_, hkey, hiv, fun _ hm => (hecb hm).trans (hchain hopen hm)⟩
  exact absurd (hopen.symm.trans hclosed) nofun

theorem ContextInv.clearIvpend (h : ContextInv s) (hopen : s.mopen = true) :
    ContextInv (clearIvpend s) := by
  obtain ⟨-, hkey, -, hchain⟩ := h
  exact ⟨fun hclosed => absurd (hopen.symm.trans hclosed) nofun, hkey, nofun, hchain⟩

/-- R175: a decrypting FINAL closes the message, and a pad length it leaves is that of a block. -/
theorem finalDec_keeps_inv (h : finalDec s = .next t) : t.Inv := by
  have hclosed := contextInv_closeMessage s
  obtain ⟨-, rfl⟩ | ⟨-, -, rfl⟩ | ⟨-, n, hpad, rfl⟩ := finalDec_cases h
  · exact inv_of_padlen_zero hclosed rfl
  · exact inv_of_padlen_zero hclosed rfl
  · refine ContextInv.inv hclosed ?_ fun _ => ⟨rfl, rfl⟩
    exact (toNat_padlen_of_padCheck hpad).trans_le (padCheck_range hpad).2

/-- Every command keeps the invariants. -/
theorem exec_keeps_inv {i : Instr} (hinv : s.Inv) (h : exec i s = .next t) : t.Inv := by
  have hctx := hinv.contextInv
  cases i with
  | keyexp =>
    obtain ⟨-, rfl⟩ | ⟨-, rfl⟩ := execKeyexp_cases h
    · exact hinv
    · exact inv_of_padlen_zero (hctx.installKeys (keyExpand s.mk)) rfl
  | encb =>
    obtain ⟨-, rfl⟩ | ⟨-, rfl⟩ := singleBlock_cases h
    · exact hinv
    · exact inv_of_padlen_zero hctx rfl
  | decb =>
    obtain ⟨-, rfl⟩ | ⟨-, rfl⟩ := singleBlock_cases h
    · exact hinv
    · exact inv_of_padlen_zero hctx rfl
  | start d m =>
    obtain ⟨-, -, -, rfl⟩ | ⟨-, rfl⟩ | ⟨-, -, rfl⟩ | ⟨-, hkey, hopened⟩ := execStart_cases h
    · exact hinv
    · exact hinv
    · exact hinv
    · obtain ⟨rfl, rfl⟩ | ⟨rfl, rfl, rfl⟩ | ⟨rfl, rfl, iv, -, rfl⟩ := hopened
      · exact inv_of_padlen_zero (contextInv_openMessage (s := s) hkey nofun fun _ => rfl) rfl
      · exact inv_of_padlen_zero
          (contextInv_openMessage (s := s) hkey (fun _ => ⟨rfl, rfl⟩) fun _ => rfl) rfl
      · exact inv_of_padlen_zero (contextInv_openMessage (s := s) hkey nofun nofun) rfl
  | block =>
    obtain ⟨-, rfl⟩ | ⟨hopen, -, hmode, -, rfl⟩ | ⟨hopen, -, out, c, rfl, hout⟩ :=
      execBlock_cases h
    · exact hinv
    · have hload := hctx.setChain (c := s.din) hopen (by simp [hmode])
      exact inv_of_padlen_zero (hload.clearIvpend hopen) rfl
    · refine inv_of_padlen_zero (hctx.setChain (c := c) hopen fun hecb => ?_) rfl
      obtain ⟨-, -, -, hc⟩ | ⟨-, hcbc, -⟩ | ⟨-, -, -, hc⟩ | ⟨-, hcbc, -⟩ := hout
      · exact hc
      · simp [hcbc] at hecb
      · exact hc
      · simp [hcbc] at hecb
  | final nb =>
    obtain ⟨-, rfl⟩ | ⟨-, -, -, rfl⟩ | ⟨-, -, rfl⟩ | ⟨-, -, -, hdec⟩ := execFinal_cases h
    · exact hinv
    · exact hinv
    · exact inv_of_padlen_zero (contextInv_closeMessage s) rfl
    · exact finalDec_keeps_inv hdec
  | abort =>
    rw [execAbort_cases h]
    exact inv_of_padlen_zero (contextInv_closeMessage s) rfl

theorem coreStep_keeps_inv (hinv : s.Inv) (h : coreStep s = .next t) : t.Inv := by
  obtain ⟨-, rfl⟩ | ⟨-, -, rfl⟩ | ⟨-, i, -, hexec⟩ := coreStep_cases h
  · exact hinv
  · exact hinv
  · exact exec_keeps_inv hinv hexec

/-- R66: a host write that is no reset leaves the fields that commands alone write. -/
theorem writeReg_frame {r : Reg} {v : Word} (h : ¬ (r = .ctrl ∧ v.getLsbD 1 = true)) :
    writeReg r v s = { s with
      ie := (writeReg r v s).ie, busy := (writeReg r v s).busy, done := (writeReg r v s).done,
      ovr := (writeReg r v s).ovr, mk := (writeReg r v s).mk, din := (writeReg r v s).din,
      pend := (writeReg r v s).pend } := by
  obtain ⟨-, hw⟩ | ⟨hr, hv, -⟩ | ⟨-, -, hw⟩ | ⟨-, hw⟩ | ⟨-, -, hw⟩ | ⟨-, -, hw⟩ | ⟨-, k, -, hw⟩ |
    ⟨-, k, -, hw⟩ := writeReg_cases r v s
  case inr.inl => exact absurd ⟨hr, hv⟩ h
  case inr.inr.inr.inr.inr.inr.inl =>
    rw [hw]
    generalize setWordOfBlock s.mk k v = b
    rfl
  case inr.inr.inr.inr.inr.inr.inr =>
    rw [hw]
    generalize setWordOfBlock s.din k v = b
    rfl
  all_goals rw [hw] <;> rfl

theorem reset_inv : State.reset.Inv := by decide

/-- Settles O51: with no message open and PADLEN 0 nothing is left to meet. -/
theorem invariantsHoldAtReset : Obligations.InvariantsHoldAtReset := reset_inv

/-- Settles O52: the invariants speak of no field that the environment, the host or a turn moves,
hold at reset, and are kept by every command. -/
theorem stepKeepsTheInvariants : Obligations.StepKeepsTheInvariants := by
  intro s t hinv h
  obtain ⟨e, rfl⟩ | ⟨-, -, ts, hcore⟩ | ⟨-, e, rfl⟩ | ⟨r, v, e, -, hreset, rfl⟩ := step_effects h
  · exact hinv
  · exact coreStep_keeps_inv (s := setTurns ts s) hinv hcore
  · exact reset_inv
  · rw [writeReg_frame hreset]
    exact hinv

/-! ### A legal state never stops (R63, R172) -/

theorem hostStep_ne_fault (s : State) (f : Fault) : hostStep s ≠ .fault f := by
  unfold hostStep
  split
  · nofun
  · split <;> nofun
  · split <;> nofun
  · split <;> nofun
  · split <;> nofun

/-- R63: the host's turn goes on unless its next access is one the core does not accept. -/
theorem hostStep_answers (h : HostAccessesLegal s) : ∃ t, hostStep s = .next t := by
  cases hout : hostStep s with
  | next t => exact ⟨t, rfl⟩
  | fault f => exact absurd hout (hostStep_ne_fault s f)
  | refused r =>
    obtain ⟨-, op, rest, hprog, hbad⟩ := (hostStep_eq_refused_iff s r).mp hout
    exact absurd (h op (by simp [hprog])) (by simp [hbad])

theorem step_answers (hiv : IvpendContext s) (hhost : HostAccessesLegal s) :
    ∃ t, step s = .next t := by
  have ⟨ts, hts⟩ := takeTurn_eq s
  unfold step
  rw [hts]
  cases (takeTurn s).1 with
  | core => exact coreStep_answers (s := setTurns ts s) hiv
  | host => exact hostStep_answers (s := setTurns ts s) hhost
  | entropy o => exact ⟨_, rfl⟩
  | reset => exact ⟨_, rfl⟩

theorem coreStep_hostProg (h : coreStep s = .next t) : t.env.hostProg = s.env.hostProg := by
  obtain ⟨-, rfl⟩ | ⟨-, -, rfl⟩ | ⟨-, i, -, hexec⟩ := coreStep_cases h
  · rfl
  · rfl
  · obtain ⟨-, -, -, -, -, henv⟩ := exec_keeps_host_state hexec
    rw [henv]

theorem writeReg_env (r : Reg) (v : Word) (s : State) : (writeReg r v s).env = s.env := by
  by_cases hreset : r = .ctrl ∧ v.getLsbD 1 = true
  · obtain ⟨rfl, hv⟩ := hreset
    rw [writeReg_ctrl_of_srst s hv, resetCore_env]
  · rw [writeReg_frame hreset]

/-- R91: the host's turn does its next operation or none. -/
theorem hostStep_hostProg (h : hostStep s = .next t) :
    t.env.hostProg = s.env.hostProg ∨ ∃ op, s.env.hostProg = op :: t.env.hostProg := by
  obtain rfl | ⟨op, rest, hprog, rfl, -⟩ | ⟨a, v, rest, r, hprog, -, rfl⟩ |
    ⟨a, rest, r, hprog, -, rfl⟩ := hostStep_cases h
  · exact .inl rfl
  · exact .inr ⟨op, hprog⟩
  · exact .inr ⟨_, by rw [writeReg_env, hprog, hostGoesOn_env]⟩
  · exact .inr ⟨_, hprog⟩

/-- A step adds nothing to the host's program. -/
theorem step_hostProg_subset (h : step s = .next t) : t.env.hostProg ⊆ s.env.hostProg := by
  rw [← takeTurn_hostProg s]
  obtain ⟨-, hcore⟩ | ⟨-, hhost⟩ | ⟨o, -, rfl⟩ | ⟨-, rfl⟩ := step_cases h
  · rw [coreStep_hostProg hcore]
    exact List.Subset.refl _
  · obtain hsame | ⟨op, hcons⟩ := hostStep_hostProg hhost
    · rw [hsame]
      exact List.Subset.refl _
    · rw [hcons]
      exact List.subset_cons_self _ _
  · exact List.Subset.refl _
  · exact List.Subset.refl _

/-- Settles O54: every agent's turn has a next state, which meets the invariants and has no more host
operations to come. -/
theorem legalStateNeverStops : Obligations.LegalStateNeverStops := by
  intro s hinv hhost
  have ⟨_, _, hiv, _⟩ := hinv
  obtain ⟨t, ht⟩ := step_answers hiv hhost
  exact ⟨t, ht, stepKeepsTheInvariants s t hinv ht,
    fun op hop => hhost op (step_hostProg_subset ht hop)⟩

end Sys2Proof.Machine
end

section
/-! Proofs of the statements about who writes which register and flag (spec/10_state.md R25 to R42) and
about what a host write, a read and the reset input do (spec/20_memory.md R64 to R70). -/

namespace Sys2Proof.Machine

variable {s t : State}

/-! ### The round keys (R32, R41) -/

/-- R143: KEYEXP alone writes RK and KEYV, with no message open. -/
theorem exec_keys {i : Instr} (h : exec i s = .next t) :
    (t.rk = s.rk ∧ t.keyv = s.keyv) ∨
    (i = .keyexp ∧ s.mopen = false ∧ t.rk = keyExpand s.mk ∧ t.keyv = true ∧ t.err = .ok) := by
  cases i with
  | keyexp =>
    obtain ⟨-, rfl⟩ | ⟨hopen, rfl⟩ := execKeyexp_cases h
    · exact .inl ⟨rfl, rfl⟩
    · exact .inr ⟨rfl, hopen, rfl, rfl, rfl⟩
  | encb => obtain ⟨-, rfl⟩ | ⟨-, rfl⟩ := singleBlock_cases h <;> exact .inl ⟨rfl, rfl⟩
  | decb => obtain ⟨-, rfl⟩ | ⟨-, rfl⟩ := singleBlock_cases h <;> exact .inl ⟨rfl, rfl⟩
  | start d m =>
    obtain ⟨-, -, -, rfl⟩ | ⟨-, rfl⟩ | ⟨-, -, rfl⟩ | ⟨-, -, ⟨-, rfl⟩ | ⟨-, -, rfl⟩ |
      ⟨-, -, iv, -, rfl⟩⟩ := execStart_cases h <;> exact .inl ⟨rfl, rfl⟩
  | block =>
    obtain ⟨-, rfl⟩ | ⟨-, -, -, -, rfl⟩ | ⟨-, -, out, c, rfl, -⟩ := execBlock_cases h <;>
      exact .inl ⟨rfl, rfl⟩
  | final nb =>
    obtain ⟨-, rfl⟩ | ⟨-, -, -, rfl⟩ | ⟨-, -, rfl⟩ | ⟨-, -, -, hdec⟩ := execFinal_cases h
    · exact .inl ⟨rfl, rfl⟩
    · exact .inl ⟨rfl, rfl⟩
    · exact .inl ⟨rfl, rfl⟩
    · obtain ⟨-, rfl⟩ | ⟨-, -, rfl⟩ | ⟨-, n, -, rfl⟩ := finalDec_cases hdec <;> exact .inl ⟨rfl, rfl⟩
  | abort => exact execAbort_cases h ▸ .inl ⟨rfl, rfl⟩

theorem coreStep_keys (h : coreStep s = .next t) :
    (t.rk = s.rk ∧ t.keyv = s.keyv) ∨
    (decode s.pend = .ok .keyexp ∧ s.mopen = false ∧ t.rk = keyExpand s.mk ∧ t.keyv = true ∧
      t.err = .ok) := by
  obtain ⟨-, rfl⟩ | ⟨-, -, rfl⟩ | ⟨-, i, hdec, hexec⟩ := coreStep_cases h
  · exact .inl ⟨rfl, rfl⟩
  · exact .inl ⟨rfl, rfl⟩
  · obtain hkeep | ⟨rfl, hexp⟩ := exec_keys hexec
    · exact .inl hkeep
    · exact .inr ⟨hdec, hexp⟩

theorem step_keys (h : step s = .next t) :
    (ResetStep s ∧ t.keyv = false) ∨ (t.rk = s.rk ∧ t.keyv = s.keyv) ∨
    (CompletionStep s ∧ decode s.pend = .ok .keyexp ∧ s.mopen = false ∧ t.rk = keyExpand s.mk ∧
      t.keyv = true ∧ t.err = .ok) := by
  obtain ⟨e, rfl⟩ | ⟨hcomp, -, ts, hcore⟩ | ⟨hreset, e, rfl⟩ | ⟨r, v, e, -, hreset, rfl⟩ :=
    step_effects h
  · exact .inr (.inl ⟨rfl, rfl⟩)
  · obtain hkeep | hexp := coreStep_keys hcore
    · exact .inr (.inl hkeep)
    · exact .inr (.inr ⟨hcomp, hexp⟩)
  · exact .inl ⟨hreset, rfl⟩
  · rw [writeReg_frame hreset]
    exact .inr (.inl ⟨rfl, rfl⟩)

/-- Settles O21: a step that is neither a reset nor KEYEXP's completion leaves RK and KEYV. -/
theorem roundKeyAndKeyvWriters : Obligations.RoundKeyAndKeyvWriters := by
  intro s t h
  obtain ⟨hreset, hkeyv⟩ | ⟨hrk, hkeyv⟩ | ⟨hcomp, hdec, hopen, hrk, hkeyv, herr⟩ := step_keys h
  · exact ⟨fun _ => .inl hreset, fun _ hafter => by simp [hkeyv] at hafter, fun _ _ => hreset⟩
  · exact ⟨fun hne => absurd hrk hne, fun hbefore hafter => by simp [hkeyv, hbefore] at hafter,
      fun hbefore hafter => by simp [hkeyv, hbefore] at hafter⟩
  · exact ⟨fun _ => .inr ⟨hcomp, hdec, hopen, hrk⟩, fun _ _ => ⟨hcomp, hdec, herr, hrk⟩,
      fun _ hafter => by simp [hkeyv] at hafter⟩

/-! ### The flags BUSY, DONE and OVR (R28 to R30) -/

theorem coreStep_keeps_host_state (h : coreStep s = .next t) :
    t.ie = s.ie ∧ t.ovr = s.ovr ∧ t.mk = s.mk ∧ t.din = s.din := by
  obtain ⟨-, rfl⟩ | ⟨-, -, rfl⟩ | ⟨-, i, -, hexec⟩ := coreStep_cases h
  · exact ⟨rfl, rfl, rfl, rfl⟩
  · exact ⟨rfl, rfl, rfl, rfl⟩
  · obtain ⟨hie, hovr, hmk, hdin, -⟩ := exec_keeps_host_state hexec
    exact ⟨hie, hovr, hmk, hdin⟩

/-- Settles O38: a completion clears BUSY with DONE set and leaves OVR, a reset clears all three, and
a host write moves each only as its register says. -/
theorem statusFlagWriters : Obligations.StatusFlagWriters := by
  intro s t h
  obtain ⟨e, rfl⟩ | ⟨hcomp, hend, ts, hcore⟩ | ⟨hreset, e, rfl⟩ | ⟨r, v, e, hwrite, hreset, rfl⟩ :=
    step_effects h
  · simp +contextual
  · have hdone := coreStep_completion_done (s := setTurns ts s) hcomp.2 hcore hend
    have hovr : t.ovr = s.ovr := (coreStep_keeps_host_state hcore).2.1
    refine ⟨?_, fun _ _ => .inl ⟨hcomp, hdone⟩, fun _ _ => ⟨hcomp, hend⟩, ?_, ?_, ?_⟩ <;>
      simp +contextual [hend, hdone, hovr]
  · refine ⟨?_, fun _ _ => .inr hreset, ?_, fun _ _ => .inr hreset, ?_, fun _ _ => .inr hreset⟩ <;>
      simp [State.reset]
  · obtain ⟨-, hw⟩ | ⟨hr, hv, -⟩ | ⟨-, -, hw⟩ | ⟨rfl, hw⟩ | ⟨hbusy, hr, hw⟩ | ⟨hidle, rfl, hw⟩ |
      ⟨-, k, -, hw⟩ | ⟨-, k, -, hw⟩ := writeReg_cases r v { s with env := e }
    · rw [hw]
      simp +contextual
    · exact absurd ⟨hr, hv⟩ hreset
    · rw [hw]
      simp +contextual
    · rw [hw]
      exact ⟨by simp +contextual, by simp +contextual, by simp +contextual,
        fun hb ha => .inl ⟨v, by simpa [hb] using ha, hwrite⟩, by simp +contextual,
        fun hb ha => .inl ⟨v, by simpa [hb] using ha, hwrite⟩⟩
    · rw [hw]
      exact ⟨by simp +contextual, by simp +contextual, by simp +contextual, by simp +contextual,
        fun _ _ => ⟨hbusy, r, v, hwrite, hr⟩, by simp⟩
    · rw [hw]
      exact ⟨fun _ _ => ⟨v, hwrite, rfl⟩, by simp, by simp +contextual, by simp +contextual,
        by simp +contextual, by simp +contextual⟩
    · rw [hw]
      simp +contextual
    · rw [hw]
      simp +contextual

/-! ### The other registers (R25, R31, R33 to R42) -/

/-- Settles O39: what commands write no host write reaches, and the reverse. -/
theorem blockRegisterWriters : Obligations.BlockRegisterWriters := by
  intro s t h
  obtain ⟨e, rfl⟩ | ⟨hcomp, hend, ts, hcore⟩ | ⟨hreset, -⟩ | ⟨r, v, e, hwrite, hreset, rfl⟩ :=
    step_effects h
  · simp
  · obtain ⟨hie, -, hmk, hdin⟩ := coreStep_keeps_host_state hcore
    exact ⟨fun hne => absurd hmk hne, fun hne => absurd hdin hne, fun hne => absurd hie hne,
      fun _ => .inl ⟨hcomp, hend⟩⟩
  · exact ⟨fun _ => .inr hreset, fun _ => .inr hreset, fun _ => .inr hreset, fun _ => .inr hreset⟩
  · obtain ⟨-, hw⟩ | ⟨hr, hv, -⟩ | ⟨rfl, -, hw⟩ | ⟨-, hw⟩ | ⟨-, -, hw⟩ | ⟨-, -, hw⟩ |
      ⟨hidle, k, rfl, hw⟩ | ⟨hidle, k, rfl, hw⟩ := writeReg_cases r v { s with env := e }
    · rw [hw]
      simp
    · exact absurd ⟨hr, hv⟩ hreset
    · rw [hw]
      exact ⟨by simp, by simp, fun _ => .inl ⟨v, hwrite, rfl⟩, by simp⟩
    · rw [hw]
      simp
    · rw [hw]
      simp
    · rw [hw]
      simp
    · rw [hw]
      exact ⟨fun _ => .inl ⟨hidle, k, v, hwrite⟩, by simp, by simp, by simp⟩
    · rw [hw]
      exact ⟨by simp, fun _ => .inl ⟨hidle, k, v, hwrite⟩, by simp, by simp⟩

end Sys2Proof.Machine
end

section
/-! Proofs of the statements about the host's accesses: what reads return and that they change nothing,
what writes do, and what a pending or an idle core does not depend on (spec/20_memory.md R64 to R70,
spec/70_reset_and_hazards.md R281). -/

namespace Sys2Proof.Machine

variable {s t : State}

/-! ### Reads (R22 to R27, R64, R65) -/

/-- R13: bit `i` of a word with one bit at position `n`. -/
theorem bitAt_getLsbD (n : Nat) (b : Bool) (i : Nat) :
    (bitAt n b).getLsbD i = (decide (i < 32) && decide (i = n) && b) := by
  rw [bitAt, fieldAt_getLsbD, BitVec.getLsbD_ofBool]
  by_cases hi : i = n
  · simp [hi]
  · by_cases hn : n ≤ i
    · simp [hi, show i - n ≠ 0 by omega]
    · simp [hi, hn]

/-- R27: bit `n` of STATUS. -/
theorem statusWord_getLsbD (s : State) (n : Nat) : (statusWord s).getLsbD n =
    (decide (n < 32) && (decide (n = 0) && s.busy || decide (n = 1) && s.done ||
      decide (n = 2) && s.ovr || decide (4 ≤ n) && s.err.code.getLsbD (n - 4) ||
      decide (n = 8) && s.keyv || decide (n = 9) && s.mopen || decide (n = 10) && s.mdir.bit ||
      decide (n = 11) && s.mmode.bit || decide (n = 12) && s.ivpend ||
      decide (n = 13) && s.outv || decide (16 ≤ n) && s.padlen.getLsbD (n - 16))) := by
  simp only [statusWord, BitVec.getLsbD_or, bitAt_getLsbD, fieldAt_getLsbD, Bool.and_assoc,
    ← Bool.and_or_distrib_left]

/-- R27, R241: ERR is STATUS bits 7:4. -/
theorem statusWord_err (s : State) : (statusWord s).extractLsb' 4 4 = s.err.code := by
  apply BitVec.eq_of_getLsbD_eq
  intro n hn
  rw [BitVec.getLsbD_extractLsb', statusWord_getLsbD]
  interval_cases n <;> simp

/-- R27, R35: PADLEN is STATUS bits 20:16. -/
theorem statusWord_padlen (s : State) : (statusWord s).extractLsb' 16 5 = s.padlen := by
  apply BitVec.eq_of_getLsbD_eq
  intro n hn
  rw [BitVec.getLsbD_extractLsb', statusWord_getLsbD]
  interval_cases n <;> simp

theorem statusWord_reserved (s : State) {n : Nat} (h : 21 ≤ n) :
    (statusWord s).getLsbD n = false := by
  have herr : s.err.code.getLsbD (n - 4) = false := BitVec.getLsbD_of_ge _ _ (by omega)
  have hpad : s.padlen.getLsbD (n - 16) = false := BitVec.getLsbD_of_ge _ _ (by omega)
  rw [statusWord_getLsbD, herr, hpad]
  simp
  omega

theorem paramWord_eq : paramWord = 0x000B0A10 := by decide

/-- Settles O48: the words of PARAM and CTRL by evaluation, each bit of STATUS by its position. -/
theorem registerReads : Obligations.RegisterReads := by
  intro s
  refine ⟨paramWord_eq, rfl, fun _ => rfl, fun _ => ⟨rfl, rfl⟩, ?_, ?_⟩
  · simp only [readReg, ctrlWord]
    cases s.ie <;> rfl
  · simp only [readReg, statusWord_err, statusWord_padlen]
    have hbit := statusWord_getLsbD s
    refine ⟨?_, ?_, ?_, ?_, by cases s.err <;> rfl, ?_, ?_, ?_, ?_, ?_, ?_, ?_, ?_, trivial,
      fun n hn => statusWord_reserved s hn⟩ <;> exact (hbit _).trans (by simp)

/-- Settles O49: no register shows MK, RK, CHAIN or PEND. -/
theorem keyMaterialCannotBeRead : Obligations.KeyMaterialCannotBeRead := by
  intro s mk chain rk pend r
  cases r <;> rfl

theorem readReg_hostGoesOn (q : Reg) (rest : List HostOp) (s : State) :
    readReg q (hostGoesOn rest s) = readReg q s := by
  cases q <;> rfl

theorem readReg_hostRead (q : Reg) (a : Access) (r : Reg) (rest : List HostOp) (s : State) :
    readReg q (hostRead a r (hostGoesOn rest s)) = readReg q s := by
  cases q <;> rfl

theorem hostStep_of_rd {a : Access} {rest : List HostOp} {r : Reg}
    (hprog : s.env.hostProg = .rd a :: rest) (hreg : regAt a = some r) :
    hostStep s = .next (hostRead a r (hostGoesOn rest s)) := by
  simp [hostStep, hprog, hreg]

/-- Settles O47: a read moves on in the host's program and records its value, which no register
shows. -/
theorem readsHaveNoSideEffect : Obligations.ReadsHaveNoSideEffect := by
  intro s t a rest hprog h
  cases hreg : regAt a with
  | none => simp [hostStep, hprog, hreg] at h
  | some r =>
    obtain rfl := Host.Outcome.next.inj ((hostStep_of_rd hprog hreg).symm.trans h)
    refine ⟨r, rfl, ?_, fun q => readReg_hostRead q a r rest s⟩
    rw [hostRead, readReg_hostGoesOn]
    rfl

/-! ### Writes and resets (R64, R66, R67, R270, R280) -/

/-- R25: a CTRL write without bit 1 gives IE its bit 0. -/
theorem writeReg_ctrl_of_not_srst {v : Word} (s : State) (h : v.getLsbD 1 = false) :
    writeReg .ctrl v s = setIe (v.getLsbD 0) s :=
  if_neg (Bool.eq_false_iff.mp h)

theorem writeReg_cmd_idle (v : Word) (h : s.busy = false) :
    writeReg .cmd v s = acceptCommand v s :=
  if_neg (Bool.eq_false_iff.mp h)

theorem takeTurn_of_turns {u : Turn} {ts : List Turn} (h : s.env.turns = u :: ts) :
    takeTurn s = (u, setTurns ts s) := by
  simp [takeTurn, h]

theorem takeTurn_of_no_turns (h : s.env.turns = []) :
    takeTurn s = (if coreEnabled s then .core else .host, s) := by
  simp [takeTurn, h]

theorem hostStep_of_wr {a : Access} {v : Word} {rest : List HostOp} {r : Reg}
    (hprog : s.env.hostProg = .wr a v :: rest) (hreg : regAt a = some r) :
    hostStep s = .next (writeReg r v (hostGoesOn rest s)) := by
  simp [hostStep, hprog, hreg]

/-- Settles O44: each write's branch of `writeReg`, by BUSY and by the word's bit 1. -/
theorem registerWriteEffects : Obligations.RegisterWriteEffects := by
  refine ⟨fun s v k => ⟨fun hidle => ?_, fun hbusy => ⟨?_, ?_, ?_⟩, rfl, rfl, rfl, fun hv => ?_,
    fun hv => writeReg_ctrl_of_srst s hv⟩, fun s a v rest r hprog hreg => ?_, fun s ts hturns => ?_⟩
  · exact writeReg_cmd_idle v hidle
  · exact if_pos hbusy
  · exact if_pos hbusy
  · exact if_pos hbusy
  · exact writeReg_ctrl_of_not_srst s hv
  · refine ⟨hostStep_of_wr hprog hreg, fun hturn => ?_⟩
    rw [step, hturn]
    exact hostStep_of_wr ((takeTurn_hostProg s).trans hprog) hreg
  · have htake := takeTurn_of_turns hturns
    rw [step_of_reset_turn (by rw [htake]), htake]
    rfl

/-! ### What the host cannot move of a pending command (R67, R281) -/

/-- Settles O45: while BUSY = 1 a host write is dropped, clears flags, sets IE or is a reset, and a
reset clears BUSY. -/
theorem hostKeepsPendingCommandInputs : Obligations.HostKeepsPendingCommandInputs := by
  intro s t hbusy h hstill
  obtain rfl | ⟨op, rest, -, rfl, -⟩ | ⟨a, v, rest, r, -, -, rfl⟩ | ⟨a, rest, r, -, -, rfl⟩ :=
    hostStep_cases h
  · exact ⟨rfl, rfl⟩
  · exact ⟨rfl, rfl⟩
  · refine ⟨?_, by rw [writeReg_env]; rfl⟩
    obtain ⟨-, hw⟩ | ⟨-, -, hw⟩ | ⟨-, -, hw⟩ | ⟨-, hw⟩ | ⟨-, -, hw⟩ | ⟨hidle, -⟩ | ⟨hidle, -⟩ |
      ⟨hidle, -⟩ := writeReg_cases r v (hostGoesOn rest s)
    · rw [hw]
      rfl
    · rw [hw] at hstill
      exact absurd hstill nofun
    · rw [hw]
      rfl
    · rw [hw]
      rfl
    · rw [hw]
      rfl
    · exact absurd (hbusy.symm.trans hidle) nofun
    · exact absurd (hbusy.symm.trans hidle) nofun
    · exact absurd (hbusy.symm.trans hidle) nofun
  · exact ⟨rfl, rfl⟩

/-! ### What an idle core does not depend on (R44 item 7) -/

/-- The same state with another word in PEND. -/
def withPend (p : Word) (s : State) : State := { s with pend := p }

theorem withPend_mk (p : Word) (s : State) : (withPend p s).mk = s.mk := rfl
theorem withPend_din (p : Word) (s : State) : (withPend p s).din = s.din := rfl

/-- R44 item 7: `t'` is `t` but for PEND, and the same PEND where `t` has a command pending. -/
def SameButPend (t t' : State) : Prop := ∃ q, t' = withPend q t ∧ (t.busy = true → q = t.pend)

theorem sameButPend_of_idle (p : Word) (h : t.busy = false) : SameButPend t (withPend p t) :=
  ⟨p, rfl, fun hbusy => absurd (h.symm.trans hbusy) nofun⟩

theorem SameButPend.refl (t : State) : SameButPend t t := ⟨t.pend, rfl, fun _ => rfl⟩

theorem takeTurn_withPend (p : Word) (h : s.busy = false) :
    takeTurn (withPend p s) = ((takeTurn s).1, withPend p (takeTurn s).2) := by
  have hdisabled (u : State) (hu : u.busy = false) : coreEnabled u = false := by
    simp [coreEnabled, hu]
  cases hturns : s.env.turns with
  | nil =>
    rw [takeTurn_of_no_turns hturns, takeTurn_of_no_turns (s := withPend p s) hturns,
      hdisabled s h, hdisabled (withPend p s) h]
  | cons u ts =>
    rw [takeTurn_of_turns hturns, takeTurn_of_turns (s := withPend p s) hturns]
    rfl

theorem writeReg_withPend (r : Reg) (v p : Word) (h : s.busy = false) :
    SameButPend (writeReg r v s) (writeReg r v (withPend p s)) := by
  cases r with
  | param => exact sameButPend_of_idle p h
  | dout k => exact sameButPend_of_idle p h
  | status => exact sameButPend_of_idle p h
  | ctrl =>
    cases hv : v.getLsbD 1
    · rw [writeReg_ctrl_of_not_srst s hv, writeReg_ctrl_of_not_srst _ hv]
      exact sameButPend_of_idle p h
    · rw [writeReg_ctrl_of_srst s hv, writeReg_ctrl_of_srst _ hv]
      exact .refl _
  | cmd =>
    rw [writeReg_cmd_idle v h, writeReg_cmd_idle (s := withPend p s) v h]
    exact .refl _
  | mk k =>
    rw [writeReg_mk_idle h, writeReg_mk_idle (s := withPend p s) h, withPend_mk]
    exact sameButPend_of_idle p ((setMk_busy s _).trans h)
  | din k =>
    rw [writeReg_din_idle h, writeReg_din_idle (s := withPend p s) h, withPend_din]
    exact sameButPend_of_idle p ((setDin_busy s _).trans h)

theorem readReg_withPend (q : Reg) (p : Word) (s : State) :
    readReg q (withPend p s) = readReg q s := by
  cases q <;> rfl

theorem hostRead_withPend (a : Access) (r : Reg) (p : Word) (s : State) :
    hostRead a r (withPend p s) = withPend p (hostRead a r s) := by
  rw [hostRead, readReg_withPend]
  rfl

theorem hostStep_of_poll {b : Fin 32} {w : Bool} {rest : List HostOp}
    (hprog : s.env.hostProg = .poll b w :: rest) :
    hostStep s =
      .next (if (statusWord s).getLsbD b.val = w then hostGoesOn rest s else s) := by
  simp only [hostStep, hprog]
  split <;> rfl

theorem hostStep_of_waitIrq {rest : List HostOp} (hprog : s.env.hostProg = .waitIrq :: rest) :
    hostStep s = .next (if irq s then hostGoesOn rest s else s) := by
  simp only [hostStep, hprog]
  split <;> rfl

/-- R91, R92: the host of an idle core does the same whatever PEND holds. -/
theorem hostStep_withPend (p : Word) (h : s.busy = false) (ht : hostStep s = .next t) :
    ∃ t', hostStep (withPend p s) = .next t' ∧ SameButPend t t' := by
  cases hprog : s.env.hostProg with
  | nil =>
    have hstay (u : State) (hu : u.env.hostProg = []) : hostStep u = .next u := by
      simp [hostStep, hu]
    obtain rfl := Host.Outcome.next.inj ((hstay s hprog).symm.trans ht)
    exact ⟨_, hstay (withPend p s) hprog, sameButPend_of_idle p h⟩
  | cons op rest =>
    cases op with
    | wr a v =>
      cases hreg : regAt a with
      | none => simp [hostStep, hprog, hreg] at ht
      | some r =>
        obtain rfl := Host.Outcome.next.inj ((hostStep_of_wr hprog hreg).symm.trans ht)
        exact ⟨_, hostStep_of_wr (s := withPend p s) hprog hreg,
          writeReg_withPend (s := hostGoesOn rest s) r v p h⟩
    | rd a =>
      cases hreg : regAt a with
      | none => simp [hostStep, hprog, hreg] at ht
      | some r =>
        obtain rfl := Host.Outcome.next.inj ((hostStep_of_rd hprog hreg).symm.trans ht)
        refine ⟨_, hostStep_of_rd (s := withPend p s) hprog hreg, ?_⟩
        exact hostRead_withPend a r p (hostGoesOn rest s) ▸ sameButPend_of_idle p h
    | poll b w =>
      obtain rfl := Host.Outcome.next.inj ((hostStep_of_poll hprog).symm.trans ht)
      refine ⟨_, hostStep_of_poll (s := withPend p s) hprog, ?_⟩
      by_cases hsees : (statusWord s).getLsbD b.val = w
      · rw [if_pos hsees, if_pos (show (statusWord (withPend p s)).getLsbD b.val = w from hsees)]
        exact sameButPend_of_idle p h
      · rw [if_neg hsees, if_neg (show ¬ (statusWord (withPend p s)).getLsbD b.val = w from hsees)]
        exact sameButPend_of_idle p h
    | waitIrq =>
      obtain rfl := Host.Outcome.next.inj ((hostStep_of_waitIrq hprog).symm.trans ht)
      refine ⟨_, hostStep_of_waitIrq (s := withPend p s) hprog, ?_⟩
      change SameButPend _ (if irq s then _ else _)
      split
      · exact sameButPend_of_idle p h
      · exact sameButPend_of_idle p h

/-- Settles O53: no agent's turn reads the word in PEND of an idle core, and only a CMD write and a
reset put another one there. -/
theorem pendIrrelevantWhileIdle : Obligations.PendIrrelevantWhileIdle := by
  intro s t p hidle h
  suffices hstep : ∃ t', step (withPend p s) = .next t' ∧ SameButPend t t' by
    obtain ⟨_, hnext, q, rfl, hq⟩ := hstep
    exact ⟨q, hnext, hq⟩
  have hidle' : (takeTurn s).2.busy = false := (takeTurn_busy s).trans hidle
  rw [step, takeTurn_withPend p hidle]
  obtain ⟨hturn, hcore⟩ | ⟨hturn, hhost⟩ | ⟨o, hturn, rfl⟩ | ⟨hturn, rfl⟩ := step_cases h <;>
    rw [hturn]
  · obtain rfl := Host.Outcome.next.inj ((coreStep_of_idle hidle').symm.trans hcore)
    exact ⟨_, coreStep_of_idle (s := withPend p (takeTurn s).2) hidle', sameButPend_of_idle p hidle'⟩
  · exact hostStep_withPend p hidle' hhost
  · exact ⟨_, rfl, sameButPend_of_idle p hidle'⟩
  · exact ⟨_, rfl, .refl _⟩

/-! ### What the result of a pending command depends on (R171, R281) -/

/-- The same state with other CTRL.IE, DONE and OVR and another offer of the entropy source. -/
def withOutside (ie done ovr : Bool) (o : Option Block) (s : State) : State :=
  offerEntropy o { s with ie := ie, done := done, ovr := ovr }

theorem checkStart_withOutside {o : State} {a b c : Bool} {e : Option Block}
    (h : checkStart o s = .next t) :
    checkStart (withOutside a b c e o) (withOutside a b c e s) = .next (withOutside a true c e t) := by
  obtain ⟨hopen, rfl⟩ | ⟨hopen, hkey, rfl⟩ | ⟨hopen, hkey, rfl⟩ := checkStart_cases h
  · exact checkStart_of_open _ hopen
  · exact checkStart_of_not_keyv _ hopen hkey
  · exact checkStart_of_keyv _ hopen hkey

theorem singleBlock_withOutside {blk : Block} {a b c : Bool} {e : Option Block}
    (h : singleBlock blk s = .next t) :
    singleBlock blk (withOutside a b c e s) = .next (withOutside a true c e t) := by
  obtain ⟨hkey, rfl⟩ | ⟨hkey, rfl⟩ := singleBlock_cases h
  · exact singleBlock_of_not_keyv blk hkey
  · exact singleBlock_of_keyv blk hkey

theorem execBlock_withOutside {a b c : Bool} {e : Option Block} (h : exec .block s = .next t) :
    exec .block (withOutside a b c e s) = .next (withOutside a true c e t) := by
  obtain ⟨hopen, rfl⟩ | ⟨hopen, hdir, hmode, hiv, rfl⟩ | ⟨hopen, hiv, out, ch, rfl, hctx⟩ :=
    execBlock_cases h
  · exact exec_block_of_not_open hopen
  · exact exec_block_decrypt_cbc_loads_iv hopen hdir hmode hiv
  · obtain ⟨hdir, hmode, rfl, rfl⟩ | ⟨hdir, hmode, rfl, rfl⟩ | ⟨hdir, hmode, rfl, rfl⟩ |
      ⟨hdir, hmode, rfl, rfl⟩ := hctx
    · exact exec_block_encrypt_ecb hopen hdir hmode hiv
    · exact exec_block_encrypt_cbc hopen hdir hmode hiv
    · exact exec_block_decrypt_ecb hopen hdir hmode hiv
    · exact exec_block_decrypt_cbc hopen hdir hmode hiv

theorem finalDec_withOutside {a b c : Bool} {e : Option Block} (h : finalDec s = .next t) :
    finalDec (withOutside a b c e s) = .next (withOutside a true c e t) := by
  obtain ⟨hiv, rfl⟩ | ⟨hiv, hpad, rfl⟩ | ⟨hiv, n, hpad, rfl⟩ := finalDec_cases h
  · exact finalDec_of_ivpend hiv
  · exact finalDec_of_bad_padding hiv hpad
  · exact finalDec_of_good_padding hiv hpad

/-- R281: but for a CBC-encrypting START, a command does the same whatever IE, DONE and OVR are and
whatever the entropy source offers. -/
theorem exec_withOutside {i : Instr} {a b c : Bool} {e : Option Block}
    (hi : i ≠ .start .encrypt .cbc) (h : exec i s = .next t) :
    exec i (withOutside a b c e s) = .next (withOutside a true c e t) := by
  cases i with
  | keyexp =>
    obtain ⟨hopen, rfl⟩ | ⟨hopen, rfl⟩ := execKeyexp_cases h
    · exact execKeyexp_of_open hopen
    · exact execKeyexp_of_not_open hopen
  | encb => exact singleBlock_withOutside h
  | decb => exact singleBlock_withOutside h
  | start d m =>
    have hdm : ¬ (d = .encrypt ∧ m = .cbc) := fun ⟨hd, hm⟩ => hi (by rw [hd, hm])
    rw [exec_start_of_no_draw hdm] at h ⊢
    exact checkStart_withOutside h
  | block => exact execBlock_withOutside h
  | final nb =>
    obtain ⟨hopen, rfl⟩ | ⟨hopen, hdir, hnb, rfl⟩ | ⟨hopen, hdir, rfl⟩ | ⟨hopen, hdir, rfl, hdec⟩ :=
      execFinal_cases h
    · exact exec_final_of_not_open nb hopen
    · exact exec_final_decrypt_nb hopen hdir hnb
    · exact exec_final_encrypt nb hopen hdir
    · exact (exec_final_decrypt_zero (s := withOutside a b c e s) hopen hdir).trans
        (finalDec_withOutside hdec)
  | abort =>
    obtain rfl := execAbort_cases h
    rfl

/-- R29, R171: such a command leaves the offer, IE and OVR, and DONE set. -/
theorem exec_outside_after {i : Instr} (hi : i ≠ .start .encrypt .cbc) (h : exec i s = .next t) :
    t = withOutside s.ie true s.ovr s.env.entropy t :=
  Host.Outcome.next.inj (h.symm.trans
    (exec_withOutside (a := s.ie) (b := s.done) (c := s.ovr) (e := s.env.entropy) hi h))

theorem exec_env {i : Instr} (hi : i ≠ .start .encrypt .cbc) (h : exec i s = .next t) :
    t.env = s.env := by
  obtain ⟨-, -, -, -, -, henv⟩ := exec_keeps_host_state h
  have hoffer : t.env.entropy = s.env.entropy :=
    congrArg (fun u => u.env.entropy) (exec_outside_after hi h)
  rw [henv, hoffer]

theorem exec_offerEntropy {i : Instr} (hi : i ≠ .start .encrypt .cbc) (h : exec i s = .next t)
    (o : Option Block) : exec i (offerEntropy o s) = .next (offerEntropy o t) := by
  have hgo := exec_withOutside (a := s.ie) (b := s.done) (c := s.ovr) (e := o) hi h
  have hoffer := congrArg (offerEntropy o) (exec_outside_after hi h)
  rw [hoffer]
  exact hgo

/-- R170, R171: a CBC-encrypting START takes the offer exactly where it opens its message. -/
theorem exec_start_draws {iv : Block} (hoffer : s.env.entropy = some iv)
    (h : exec (.start .encrypt .cbc) s = .next t) :
    (t.err = .ok ∧ s.mopen = false ∧ s.keyv = true ∧ t.env = { s.env with entropy := none }) ∨
    (t.err.rejected = true ∧ ¬ (s.mopen = false ∧ s.keyv = true) ∧ t.env = s.env) := by
  rw [exec_start_of_offer hoffer] at h
  obtain ⟨hopen, rfl⟩ | ⟨hopen, hkey, rfl⟩ | ⟨hopen, hkey, rfl⟩ := checkStart_cases h
  · exact .inr ⟨rfl, by simp [hopen], rfl⟩
  · exact .inr ⟨rfl, by simp [hkey], rfl⟩
  · exact .inl ⟨rfl, hopen, hkey, rfl⟩

/-- Settles O25: another offer is another `withOutside`, and a CBC-encrypting START draws or waits. -/
theorem onlyCbcStartDraws : Obligations.OnlyCbcStartDraws := by
  refine ⟨fun i s t o hi h => ⟨exec_env hi h, exec_offerEntropy hi h o⟩, fun s iv hoffer => ?_,
    fun s hoffer => exec_start_of_no_offer hoffer⟩
  obtain ⟨t, ht⟩ := exec_start_answers .encrypt .cbc s
  refine ⟨t, ht, ?_⟩
  obtain ⟨herr, hopen, hkey, henv⟩ | ⟨herr, hbad, henv⟩ := exec_start_draws hoffer ht
  · exact ⟨fun _ => henv, fun hne => absurd herr hne, fun _ => ⟨hopen, hkey⟩, fun _ => herr⟩
  · have hne : t.err ≠ .ok := fun hok => by simp [hok, ErrCode.rejected] at herr
    exact ⟨fun hok => absurd hok hne, fun _ => ⟨herr, henv⟩, fun hok => absurd hok hne,
      fun hgood => absurd hgood hbad⟩

/-- R281: a CBC-encrypting START that ends does the same whatever IE, DONE and OVR are. -/
theorem exec_start_withOutside {a b c : Bool} {iv : Block} (hoffer : s.env.entropy = some iv)
    (h : exec (.start .encrypt .cbc) s = .next t) :
    exec (.start .encrypt .cbc) (withOutside a b c s.env.entropy s) =
      .next (withOutside a true c t.env.entropy t) := by
  rw [exec_start_of_offer hoffer] at h
  rw [exec_start_of_offer (s := withOutside a b c s.env.entropy s) hoffer]
  obtain ⟨hopen, rfl⟩ | ⟨hopen, hkey, rfl⟩ | ⟨hopen, hkey, rfl⟩ := checkStart_cases h
  · exact checkStart_of_open _ hopen
  · exact checkStart_of_not_keyv _ hopen hkey
  · exact checkStart_of_keyv _ hopen hkey

theorem coreStep_withOutside {a b c : Bool} (hbusy : s.busy = true) (h : coreStep s = .next t)
    (hend : t.busy = false) :
    coreStep (withOutside a b c s.env.entropy s) = .next (withOutside a true c t.env.entropy t) := by
  obtain ⟨hidle, -⟩ | ⟨-, ⟨e, hdec⟩, rfl⟩ | ⟨-, i, hdec, hexec⟩ := coreStep_cases h
  · exact absurd (hbusy.symm.trans hidle) nofun
  · exact coreStep_illegal (s := withOutside a b c s.env.entropy s) hbusy hdec
  · rw [coreStep_of_decode (s := withOutside a b c s.env.entropy s) hbusy hdec]
    by_cases hi : i = .start .encrypt .cbc
    · subst hi
      cases hoffer : s.env.entropy with
      | none =>
        obtain rfl := Host.Outcome.next.inj ((exec_start_of_no_offer hoffer).symm.trans hexec)
        exact absurd (hbusy.symm.trans hend) nofun
      | some iv => exact hoffer ▸ exec_start_withOutside hoffer hexec
    · rw [exec_env hi hexec]
      exact exec_withOutside hi hexec

/-- Settles O46: the completion step at another IE, DONE and OVR, DONE being set by every end. -/
theorem resultIndependentOfHostBits : Obligations.ResultIndependentOfHostBits := by
  intro s t a b c hbusy h hend
  have hsame := coreStep_withOutside (a := a) (b := b) (c := c) hbusy h hend
  rw [← coreStep_completion_done hbusy h hend] at hsame
  exact hsame

end Sys2Proof.Machine
end

section
/-! Proofs of the statements about the errors of commands (spec/60_exceptions.md R242 to R246,
spec/42_modes_padding.md R173) and about the step that runs the pending command
(spec/70_reset_and_hazards.md R281). -/

namespace Sys2Proof.Machine

variable {s t : State}

/-! ### Rejected commands (R243, R245) -/

theorem coreStep_rejected (hbusy : s.busy = true) (h : coreStep s = .next t)
    (hend : t.busy = false) (hrej : t.err.rejected = true) : t = raiseError t.err s := by
  obtain ⟨hidle, -⟩ | ⟨-, -, rfl⟩ | ⟨-, i, -, hexec⟩ := coreStep_cases h
  · exact absurd (hbusy.symm.trans hidle) nofun
  · rfl
  · exact exec_rejected hbusy hexec hend hrej

/-- Settles O33: a rejected command is `raiseError` alone. -/
theorem rejectedCommandChangesOnlyResult : Obligations.RejectedCommandChangesOnlyResult :=
  fun _ _ => coreStep_rejected

/-- Settles O30: FINAL's checks come before its writes, and its row fixes all bits but NB. -/
theorem finalRejections : Obligations.FinalRejections := by
  refine ⟨fun s nb hopen => exec_final_of_not_open nb hopen,
    fun s nb hopen hdir hnb => exec_final_decrypt_nb hopen hdir hnb, ?_⟩
  have hrow := illegalWordsRejected_of_row (.final 0)
  simp only [matchesWord_iff] at hrow
  exact hrow

/-! ### Which errors a command raises (R242) -/

theorem singleBlock_err {b : Block} (h : singleBlock b s = .next t) :
    t.err = .ok ∨ t.err = .noKey := by
  obtain ⟨-, rfl⟩ | ⟨-, rfl⟩ := singleBlock_cases h
  · exact .inr rfl
  · exact .inl rfl

theorem execKeyexp_err (h : execKeyexp s = .next t) : t.err = .ok ∨ t.err = .sequence := by
  obtain ⟨-, rfl⟩ | ⟨-, rfl⟩ := execKeyexp_cases h
  · exact .inr rfl
  · exact .inl rfl

theorem execStart_err {d : Dir} {m : Mode} (hbusy : s.busy = true) (h : execStart d m s = .next t)
    (hend : t.busy = false) : t.err = .ok ∨ t.err = .sequence ∨ t.err = .noKey := by
  obtain ⟨-, -, -, rfl⟩ | ⟨-, rfl⟩ | ⟨-, -, rfl⟩ | ⟨-, -, hopened⟩ := execStart_cases h
  · exact absurd (hbusy.symm.trans hend) nofun
  · exact .inr (.inl rfl)
  · exact .inr (.inr rfl)
  · obtain ⟨-, rfl⟩ | ⟨-, -, rfl⟩ | ⟨-, -, iv, -, rfl⟩ := hopened <;> exact .inl rfl

theorem execBlock_err (h : execBlock s = .next t) : t.err = .ok ∨ t.err = .sequence := by
  obtain ⟨-, rfl⟩ | ⟨-, -, -, -, rfl⟩ | ⟨-, -, out, c, rfl, -⟩ := execBlock_cases h
  · exact .inr rfl
  · exact .inl rfl
  · exact .inl rfl

/-- R173, R175: FINAL's errors, those of the padding and of the missing IV block in a decrypting message
only. -/
theorem execFinal_err {nb : Nat} (h : execFinal nb s = .next t) :
    t.err = .ok ∨ t.err = .sequence ∨ (s.mdir = .decrypt ∧
      ((nb ≠ 0 ∧ t.err = .illegalCommand) ∨ t.err = .invalidPadding ∨
        (s.ivpend = true ∧ t.err = .truncatedCiphertext))) := by
  obtain ⟨-, rfl⟩ | ⟨-, hdir, hnb, rfl⟩ | ⟨-, -, rfl⟩ | ⟨-, hdir, -, hdec⟩ := execFinal_cases h
  · exact .inr (.inl rfl)
  · exact .inr (.inr ⟨hdir, .inl ⟨hnb, rfl⟩⟩)
  · exact .inl rfl
  · obtain ⟨hiv, rfl⟩ | ⟨-, -, rfl⟩ | ⟨-, n, -, rfl⟩ := finalDec_cases hdec
    · exact .inr (.inr ⟨hdir, .inr (.inr ⟨hiv, rfl⟩)⟩)
    · exact .inr (.inr ⟨hdir, .inr (.inl rfl)⟩)
    · exact .inl rfl

theorem execFinal_data_error {nb : Nat} (h : execFinal nb s = .next t)
    (herr : t.err = .invalidPadding ∨ t.err = .truncatedCiphertext) :
    t = raiseError t.err (zeroOutput (closeMessage s)) := by
  obtain ⟨-, rfl⟩ | ⟨-, -, -, rfl⟩ | ⟨-, -, rfl⟩ | ⟨-, -, -, hdec⟩ := execFinal_cases h
  · simp at herr
  · simp at herr
  · simp at herr
  · obtain ⟨-, rfl⟩ | ⟨-, -, rfl⟩ | ⟨-, n, -, rfl⟩ := finalDec_cases hdec
    · rfl
    · rfl
    · simp at herr

/-- R242, R246: the two data errors come of FINAL alone. -/
theorem exec_data_error {i : Instr} (hbusy : s.busy = true) (h : exec i s = .next t)
    (hend : t.busy = false) (herr : t.err = .invalidPadding ∨ t.err = .truncatedCiphertext) :
    ∃ nb, i = .final nb := by
  cases i with
  | keyexp => obtain hok | hseq := execKeyexp_err h <;> simp [*] at herr
  | encb => obtain hok | hkey := singleBlock_err h <;> simp [*] at herr
  | decb => obtain hok | hkey := singleBlock_err h <;> simp [*] at herr
  | start d m => obtain hok | hseq | hkey := execStart_err hbusy h hend <;> simp [*] at herr
  | block => obtain hok | hseq := execBlock_err h <;> simp [*] at herr
  | final nb => exact ⟨nb, rfl⟩
  | abort => simp [execAbort_cases h] at herr

/-- R44 item 3, R175: FINAL misses the IV block in an open CBC decryption only. -/
theorem exec_truncated {i : Instr} (hiv : IvpendContext s) (hbusy : s.busy = true)
    (h : exec i s = .next t) (hend : t.busy = false) (herr : t.err = .truncatedCiphertext) :
    s.mdir = .decrypt ∧ s.mmode = .cbc := by
  obtain ⟨nb, rfl⟩ := exec_data_error hbusy h hend (.inr herr)
  obtain hok | hseq | ⟨-, ⟨-, hill⟩ | hpad | ⟨hpend, -⟩⟩ := execFinal_err h
  · simp [herr] at hok
  · simp [herr] at hseq
  · simp [herr] at hill
  · simp [herr] at hpad
  · exact (hiv hpend).2

/-- Settles O34: the errors of each command's meaning, one by one. -/
theorem errorsEachCommandCanRaise : Obligations.ErrorsEachCommandCanRaise := by
  intro i s t hbusy h hend
  refine ⟨fun ⟨_, _, hiv, _⟩ herr => exec_truncated hiv hbusy h hend herr, ?_⟩
  cases i with
  | keyexp => exact execKeyexp_err h
  | encb => exact singleBlock_err h
  | decb => exact singleBlock_err h
  | start d m => exact execStart_err hbusy h hend
  | block => exact execBlock_err h
  | final nb => exact execFinal_err h
  | abort => rw [execAbort_cases h]; rfl

theorem coreStep_data_error (hbusy : s.busy = true) (h : coreStep s = .next t)
    (hend : t.busy = false) (herr : t.err = .invalidPadding ∨ t.err = .truncatedCiphertext) :
    t = raiseError t.err (zeroOutput (closeMessage s)) := by
  obtain ⟨hidle, -⟩ | ⟨-, -, rfl⟩ | ⟨-, i, -, hexec⟩ := coreStep_cases h
  · exact absurd (hbusy.symm.trans hidle) nofun
  · simp at herr
  · obtain ⟨nb, rfl⟩ := exec_data_error hbusy hexec hend herr
    exact execFinal_data_error hexec herr

/-- Settles O35: a data error closes the message and a rejection is `raiseError` alone. -/
theorem dataErrorsCloseTheMessage : Obligations.DataErrorsCloseTheMessage := by
  refine fun s t hbusy h hend => ⟨fun herr => ?_, fun hrej => ?_⟩
  · rw [coreStep_data_error hbusy h hend herr]
    exact ⟨rfl, rfl, rfl, rfl, rfl⟩
  · rw [coreStep_rejected hbusy h hend hrej]
    exact ⟨rfl, rfl, rfl, rfl, rfl⟩

/-! ### The step that runs the pending command (R281, R282) -/

/-- R282: with no turn scheduled an enabled core moves. -/
theorem step_of_enabled (hturns : s.env.turns = []) (h : coreEnabled s = true) :
    step s = coreStep s := by
  rw [step, takeTurn_of_no_turns hturns, if_pos h]
  rfl

theorem step_of_core_turn {ts : List Turn} (h : s.env.turns = .core :: ts) :
    step s = coreStep (setTurns ts s) := by
  rw [step, takeTurn_of_turns h]
  rfl

/-- Settles O7: the core's turn is `coreStep`, which decodes PEND; a placed word is in PEND with BUSY
set and the core's turn next. -/
theorem stepRunsTheDecodedCommand : Obligations.StepRunsTheDecodedCommand := by
  refine ⟨fun s i hbusy hdec => ⟨fun ts hturns => ?_, fun hturns henabled => ?_⟩,
    fun s w i hdec => ?_⟩
  · rw [step_of_core_turn hturns]
    exact coreStep_of_decode (s := setTurns ts s) hbusy hdec
  · rw [step_of_enabled hturns henabled, coreStep_of_decode hbusy hdec]
  · have hword : BitVec.ofNat 32 (w.toNat % 2 ^ 32) = w := by
      rw [Nat.mod_eq_of_lt w.isLt, BitVec.ofNat_toNat, BitVec.setWidth_eq]
    rw [State.withFetchWord, hword, step_of_core_turn (ts := s.env.turns) rfl]
    exact coreStep_of_decode (s := acceptCommand w s) rfl hdec

end Sys2Proof.Machine
end

section
/-! Proofs of the statements about which bytes and bits the layers and the block cipher depend on
(spec/40_round_transform.md R113, R114). -/

namespace Sys2Proof.Machine

/-! ### Bytes (R113) -/

/-- Settles O15: the formulas of Permute and Mix, byte by byte. -/
theorem diffusionOfPermuteAndMix : Obligations.DiffusionOfPermuteAndMix := by
  intro a b
  refine ⟨fun r hr hrow i hi hir => ?_, fun i hi h0 h1 => ?_, fun h15 h0 h1 => ?_⟩
  · rw [perm_getElem, perm_getElem]
    exact hrow _ _ (by omega)
  · rw [mix_getElem_lt a i hi, mix_getElem_lt b i hi, h0, h1]
  · rw [mix_getElem_last, mix_getElem_last, h15, h0, h1]

/-! ### Low bits of a byte (R114) -/

variable {k : Nat}

theorem setWidth_add_congr {x y x' y' : Byte} (hk : k ≤ 8) (hx : x.setWidth k = x'.setWidth k)
    (hy : y.setWidth k = y'.setWidth k) : (x + y).setWidth k = (x' + y').setWidth k := by
  rw [BitVec.setWidth_add x y hk, BitVec.setWidth_add x' y' hk, hx, hy]

theorem setWidth_mul_congr {x y x' y' : Byte} (hk : k ≤ 8) (hx : x.setWidth k = x'.setWidth k)
    (hy : y.setWidth k = y'.setWidth k) : (x * y).setWidth k = (x' * y').setWidth k := by
  rw [BitVec.setWidth_mul x y hk, BitVec.setWidth_mul x' y' hk, hx, hy]

theorem setWidth_sub_congr {x y x' y' : Byte} (hk : k ≤ 8) (hx : x.setWidth k = x'.setWidth k)
    (hy : y.setWidth k = y'.setWidth k) : (x - y).setWidth k = (x' - y').setWidth k := by
  rw [BitVec.sub_eq_add_neg, BitVec.sub_eq_add_neg]
  exact setWidth_add_congr hk hx
    (by rw [BitVec.setWidth_neg_of_le hk, BitVec.setWidth_neg_of_le hk, hy])

theorem setWidth_xor_congr {x y x' y' : Byte} (hx : x.setWidth k = x'.setWidth k)
    (hy : y.setWidth k = y'.setWidth k) : (x ^^^ y).setWidth k = (x' ^^^ y').setWidth k := by
  rw [BitVec.setWidth_xor, BitVec.setWidth_xor, hx, hy]

/-! ### Low bits of the layers (R114) -/

variable {a b c d : Block}

theorem SameLowBits.sub (hk : k ≤ 8) (h : SameLowBits k a b) :
    SameLowBits k (sub a) (sub b) := by
  intro i hi
  rw [sub_getElem, sub_getElem]
  exact setWidth_add_congr hk (setWidth_mul_congr hk rfl (h i hi)) rfl

theorem SameLowBits.invSub (hk : k ≤ 8) (h : SameLowBits k a b) :
    SameLowBits k (invSub a) (invSub b) := by
  intro i hi
  rw [invSub_getElem, invSub_getElem]
  exact setWidth_mul_congr hk (setWidth_sub_congr hk (h i hi) rfl) rfl

theorem SameLowBits.perm (h : SameLowBits k a b) : SameLowBits k (perm a) (perm b) := by
  intro i hi
  rw [perm_getElem, perm_getElem]
  exact h _ _

theorem SameLowBits.invPerm (h : SameLowBits k a b) : SameLowBits k (invPerm a) (invPerm b) := by
  intro i hi
  rw [invPerm_getElem, invPerm_getElem]
  exact h _ _

theorem SameLowBits.mix (hk : k ≤ 8) (h : SameLowBits k a b) :
    SameLowBits k (mix a) (mix b) := by
  intro i hi
  obtain hlt | rfl := Nat.lt_succ_iff_lt_or_eq.mp hi
  · rw [mix_getElem_lt a i hlt, mix_getElem_lt b i hlt]
    exact setWidth_add_congr hk (h i hi) (h (i + 1) (by omega))
  · rw [mix_getElem_last, mix_getElem_last]
    exact setWidth_add_congr hk (h 15 hi)
      (setWidth_add_congr hk (h 0 (by decide)) (h 1 (by decide)))

/-- From byte 15, where the wrap step is undone, down to byte 0. -/
theorem SameLowBits.invMix (hk : k ≤ 8) (h : SameLowBits k a b) :
    SameLowBits k (invMix a) (invMix b) := by
  intro i hi
  induction Nat.le_of_lt_succ hi using Nat.decreasingInduction with
  | self =>
    rw [invMix_getElem_last, invMix_getElem_last]
    exact setWidth_sub_congr hk (h 15 hi) (h 0 (by decide))
  | of_succ i hi' ih =>
    rw [invMix_getElem_lt a i hi', invMix_getElem_lt b i hi']
    exact setWidth_sub_congr hk (h i hi) (ih (by omega))

theorem SameLowBits.addRK (h : SameLowBits k a b) (hkey : SameLowBits k c d) :
    SameLowBits k (addRK a c) (addRK b d) := by
  intro i hi
  rw [addRK_getElem, addRK_getElem]
  exact setWidth_xor_congr (h i hi) (hkey i hi)

/-! ### Low bits of the block cipher (R114) -/

theorem SameLowBits.encRound (hk : k ≤ 8) (h : SameLowBits k a b) (hkey : SameLowBits k c d) :
    SameLowBits k (encRound c a) (encRound d b) :=
  (((h.sub hk).perm).mix hk).addRK hkey

theorem SameLowBits.decRound (hk : k ≤ 8) (h : SameLowBits k a b) (hkey : SameLowBits k c d) :
    SameLowBits k (decRound c a) (decRound d b) :=
  (((h.addRK hkey).invMix hk).invPerm).invSub hk

variable {rk rk' : RoundKeys}

theorem SameLowBits.encAfter (hk : k ≤ 8)
    (hkeys : ∀ (r : Nat) (_ : r < 11), SameLowBits k rk[r] rk'[r]) (h : SameLowBits k a b) (n : Nat)
    (hn : n ≤ 10) : SameLowBits k (encAfter rk a n) (encAfter rk' b n) := by
  induction n with
  | zero => exact h.addRK (hkeys 0 (by decide))
  | succ r ih =>
    rw [encAfter_succ rk a r hn, encAfter_succ rk' b r hn]
    exact (ih (Nat.le_of_lt hn)).encRound hk (hkeys (r + 1) (by omega))

theorem SameLowBits.decDownTo (hk : k ≤ 8)
    (hkeys : ∀ (r : Nat) (_ : r < 11), SameLowBits k rk[r] rk'[r]) (h : SameLowBits k a b) (n : Nat)
    (hn : n ≤ 10) : SameLowBits k (decDownTo rk a n) (decDownTo rk' b n) := by
  induction hn using Nat.decreasingInduction with
  | self => exact h
  | of_succ r hr ih =>
    rw [decDownTo_eq_decRound rk a r hr, decDownTo_eq_decRound rk' b r hr]
    exact ih.decRound hk (hkeys (r + 1) (by omega))

/-- Settles O16: addition, subtraction, multiplication and exclusive or carry no bit downwards, so no
layer and no round does. -/
theorem lowBitsDependOnLowBits : Obligations.LowBitsDependOnLowBits := by
  refine fun k hk => ⟨fun a b h => ⟨h.sub hk, h.invSub hk, h.perm, h.invPerm, h.mix hk, h.invMix hk,
    fun c d hkey => h.addRK hkey⟩, fun rk rk' a b hkeys h => ⟨?_, ?_⟩⟩
  · exact h.encAfter hk hkeys 10 le_rfl
  · exact (h.decDownTo hk hkeys 0 (by decide)).addRK (hkeys 0 (by decide))

end Sys2Proof.Machine
end

section
/-! Proofs of the statements that the padding and the modes are undone (spec/42_modes_padding.md R160 to
R167, R179). -/

namespace Sys2Proof.Machine

/-! ### Unpad undoes Pad (R160, R161) -/

theorem pad_length (p : List Byte) : (pad p).length = 16 * (p.length / 16 + 1) := by
  rw [pad, List.length_append, List.length_replicate]
  omega

/-- R160, R161: the pad bytes all hold their number. -/
theorem unpad_pad (p : List Byte) : unpad (pad p) = some p := by
  have hn : 1 ≤ 16 - p.length % 16 ∧ 16 - p.length % 16 ≤ 16 := by omega
  rw [unpad_eq_some_iff, pad]
  generalize 16 - p.length % 16 = n at hn
  have hbyte : (BitVec.ofNat 8 n).toNat = n := by simp; omega
  refine ⟨n, ⟨?_, hn.1, hn.2, ?_⟩, ?_⟩
  · rw [List.getD_eq_getElem?_getD, List.getElem?_append_right (by simp; omega),
      List.getElem?_replicate, if_pos (by simp; omega)]
    exact hbyte.symm
  · simp [hbyte]
  · simp

/-- Settles O22: Pad fills up to the next multiple of 16. -/
theorem unpadInvertsPad : Obligations.UnpadInvertsPad := by
  intro p
  have hlen := pad_length p
  exact ⟨by omega, by omega, by omega, unpad_pad p⟩

/-! ### Decryption undoes encryption (R164 to R167) -/

theorem fromBlocks_paddedBlocks (p : List Byte) : fromBlocks (paddedBlocks p) = pad p := by
  have hlen := pad_length p
  exact fromBlocks_toBlocks _ _ (by omega)

theorem map_decBlock_map_encBlock (rk : RoundKeys) (bs : List Block) :
    (bs.map (encBlock rk)).map (decBlock rk) = bs := by
  simp [Function.comp_def, decBlock_encBlock]

theorem decEcb_encEcb (rk : RoundKeys) (p : List Byte) : decEcb rk (encEcb rk p) = some p := by
  rw [decEcb, encEcb, map_decBlock_map_encBlock, fromBlocks_paddedBlocks, unpad_pad]

theorem decCbcFrom_encCbcFrom (rk : RoundKeys) (prev : Block) (qs : List Block) :
    decCbcFrom rk prev (encCbcFrom rk prev qs) = qs := by
  induction qs generalizing prev with
  | nil => rfl
  | cons q qs ih => rw [encCbcFrom, decCbcFrom, decBlock_encBlock, xorBlock_xorBlock, ih]

/-- R167: CBC decryption of an IV and at least one block. -/
theorem decCbc_cons (rk : RoundKeys) (iv : Block) {cs : List Block} (h : cs ≠ []) :
    decCbc rk (iv :: cs) = unpad (fromBlocks (decCbcFrom rk iv cs)) := by
  cases cs with
  | nil => exact absurd rfl h
  | cons c cs => rfl

theorem encCbcFrom_paddedBlocks_ne_nil (rk : RoundKeys) (iv : Block) (p : List Byte) :
    encCbcFrom rk iv (paddedBlocks p) ≠ [] := by
  intro hnil
  have hblocks := decCbcFrom_encCbcFrom rk iv (paddedBlocks p)
  rw [hnil, paddedBlocks_eq] at hblocks
  simp [decCbcFrom] at hblocks

theorem decCbc_encCbc (rk : RoundKeys) (iv : Block) (p : List Byte) :
    decCbc rk (encCbc rk iv p) = some p := by
  rw [encCbc, decCbc_cons rk iv (encCbcFrom_paddedBlocks_ne_nil rk iv p), decCbcFrom_encCbcFrom,
    fromBlocks_paddedBlocks, unpad_pad]

/-- Settles O32: each mode's blocks are decrypted back to the padded plaintext. -/
theorem messageRoundTrips : Obligations.MessageRoundTrips :=
  fun rk iv p => ⟨decEcb_encEcb rk p, decCbc_encCbc rk iv p⟩

end Sys2Proof.Machine
end

section
/-! Proof of the statement that the host's encoders are undone by its decoders
(spec/45_host_contract.md R211, R215, R216). -/

namespace Sys2Proof.Machine

/-! ### Hexadecimal (R215, R216) -/

theorem hexValue_hexDigit : ∀ n < 16, hexValue (hexDigit n) = some n := by decide

theorem hexEncode_cons (b : Byte) (l : List Byte) :
    hexEncode (b :: l) = hexDigit (b.toNat / 16) :: hexDigit (b.toNat % 16) :: hexEncode l := rfl

theorem hexEncode_length (l : List Byte) : (hexEncode l).length = 2 * l.length := by
  induction l with
  | nil => rfl
  | cons b l ih =>
    rw [hexEncode_cons]
    simp only [List.length_cons]
    omega

theorem hexDecode_hexEncode (l : List Byte) : hexDecode (hexEncode l) = some l := by
  induction l with
  | nil => rfl
  | cons b l ih =>
    have hhigh := hexValue_hexDigit (b.toNat / 16) (by omega)
    have hlow := hexValue_hexDigit (b.toNat % 16) (by omega)
    simp [hexEncode_cons, hexDecode, hhigh, hlow, ih, Nat.div_add_mod]

/-! ### UTF-8 (R211): the first character by the number of its bytes -/

theorem toNat_byte {n : Nat} (h : n < 256) : (BitVec.ofNat 8 n).toNat = n := Nat.mod_eq_of_lt h

theorem continuation_ofNat {x : Nat} (h : x < 64) :
    continuation (BitVec.ofNat 8 (0x80 + x)) = some x := by
  rw [continuation, toNat_byte (by omega), if_pos (by omega), Nat.add_sub_cancel_left]

theorem charAt_toNat {c : Char} {least n : Nat} (hn : n = c.toNat) (h : least ≤ n) :
    charAt least n = some c := by
  subst hn
  rw [charAt, if_pos ⟨h, c.valid⟩, Char.ofNat_toNat]

variable {a b d e : Byte} {x y z : Nat} {c : Char} {rest : List Byte}

theorem utf8Next_one (ha : a.toNat < 0x80) (hc : charAt 0 a.toNat = some c) :
    utf8Next (a :: rest) = some (c, rest) := by
  simp [utf8Next, ha, hc]

theorem utf8Next_two (ha : 0xC0 ≤ a.toNat ∧ a.toNat < 0xE0) (hx : continuation b = some x)
    (hc : charAt 0x80 ((a.toNat - 0xC0) * 64 + x) = some c) :
    utf8Next (a :: b :: rest) = some (c, rest) := by
  simp only [utf8Next]
  rw [if_neg (by omega), if_pos ha]
  exact Option.bind_eq_some_iff.mpr ⟨x, hx, Option.bind_eq_some_iff.mpr ⟨c, hc, rfl⟩⟩

theorem utf8Next_three (ha : 0xE0 ≤ a.toNat ∧ a.toNat < 0xF0) (hx : continuation b = some x)
    (hy : continuation d = some y)
    (hc : charAt 0x800 ((a.toNat - 0xE0) * 4096 + x * 64 + y) = some c) :
    utf8Next (a :: b :: d :: rest) = some (c, rest) := by
  simp only [utf8Next]
  rw [if_neg (by omega), if_neg (by omega), if_pos ha]
  exact Option.bind_eq_some_iff.mpr ⟨x, hx, Option.bind_eq_some_iff.mpr ⟨y, hy,
    Option.bind_eq_some_iff.mpr ⟨c, hc, rfl⟩⟩⟩

theorem utf8Next_four (ha : 0xF0 ≤ a.toNat ∧ a.toNat < 0xF8) (hx : continuation b = some x)
    (hy : continuation d = some y) (hz : continuation e = some z)
    (hc : charAt 0x10000 ((a.toNat - 0xF0) * 262144 + x * 4096 + y * 64 + z) = some c) :
    utf8Next (a :: b :: d :: e :: rest) = some (c, rest) := by
  simp only [utf8Next]
  rw [if_neg (by omega), if_neg (by omega), if_neg (by omega), if_pos ha]
  exact Option.bind_eq_some_iff.mpr ⟨x, hx, Option.bind_eq_some_iff.mpr ⟨y, hy,
    Option.bind_eq_some_iff.mpr ⟨z, hz, Option.bind_eq_some_iff.mpr ⟨c, hc, rfl⟩⟩⟩⟩

/-- The first character of a text is read back from its bytes, by their number. -/
theorem utf8Next_utf8Char (c : Char) (rest : List Byte) :
    utf8Next (utf8Char c ++ rest) = some (c, rest) := by
  have hmax : c.toNat < 0x110000 := by
    obtain h | h := c.valid
    · exact Nat.lt_trans h (by decide)
    · exact h.2
  unfold utf8Char
  simp only
  split_ifs with h1 h2 h3
  · have ha := toNat_byte (n := c.toNat) (by omega)
    exact utf8Next_one (by omega) (charAt_toNat ha (Nat.zero_le _))
  · have ha := toNat_byte (n := 0xC0 + c.toNat / 64) (by omega)
    exact utf8Next_two (by omega) (continuation_ofNat (Nat.mod_lt _ (by decide)))
      (charAt_toNat (by omega) (by omega))
  · have ha := toNat_byte (n := 0xE0 + c.toNat / 4096) (by omega)
    exact utf8Next_three (by omega) (continuation_ofNat (Nat.mod_lt _ (by decide)))
      (continuation_ofNat (Nat.mod_lt _ (by decide))) (charAt_toNat (by omega) (by omega))
  · have ha := toNat_byte (n := 0xF0 + c.toNat / 262144) (by omega)
    exact utf8Next_four (by omega) (continuation_ofNat (Nat.mod_lt _ (by decide)))
      (continuation_ofNat (Nat.mod_lt _ (by decide)))
      (continuation_ofNat (Nat.mod_lt _ (by decide))) (charAt_toNat (by omega) (by omega))

theorem utf8DecodeFuel_of_next {fuel : Nat} {l : List Byte}
    (h : utf8Next l = some (c, rest)) :
    utf8DecodeFuel (fuel + 1) l = (utf8DecodeFuel fuel rest).map (c :: ·) := by
  cases l with
  | nil => cases h
  | cons a l => rw [utf8DecodeFuel, h]

theorem utf8DecodeFuel_utf8 {fuel : Nat} {text : List Char} (h : text.length ≤ fuel) :
    utf8DecodeFuel fuel (utf8 text) = some text := by
  induction text generalizing fuel with
  | nil => cases fuel <;> rfl
  | cons c cs ih =>
    obtain ⟨fuel, rfl⟩ := Nat.exists_eq_add_one_of_ne_zero (Nat.ne_zero_of_lt h)
    rw [utf8, List.flatMap_cons, utf8DecodeFuel_of_next (utf8Next_utf8Char c _)]
    rw [← utf8, ih (Nat.le_of_succ_le_succ h), Option.map_some]

theorem utf8Char_length_pos (c : Char) : 0 < (utf8Char c).length := by
  unfold utf8Char
  simp only
  split_ifs <;> exact Nat.succ_pos _

theorem length_le_utf8_length (text : List Char) : text.length ≤ (utf8 text).length := by
  induction text with
  | nil => rfl
  | cons c cs ih =>
    have hpos := utf8Char_length_pos c
    rw [utf8, List.flatMap_cons, ← utf8, List.length_append, List.length_cons]
    omega

/-- Settles O55: a byte's two digits and a character's bytes are read back one after the other. -/
theorem encodersRoundTrip : Obligations.EncodersRoundTrip :=
  ⟨fun l => ⟨hexDecode_hexEncode l, hexEncode_length l⟩,
    fun text => utf8DecodeFuel_utf8 (length_le_utf8_length text)⟩

end Sys2Proof.Machine
end

section
/-! Proofs of the statements about the host procedures Construct, Encrypt and Decrypt run on the core
(spec/45_host_contract.md R212 to R224, spec/42_modes_padding.md R168). -/

namespace Sys2Proof.Machine

variable {s t : State}

/-! ### The message level, one block at a time, in either direction and mode (R164 to R167) -/

/-- R164 to R167: in CBC a block is chained with the previous ciphertext block `c`. -/
def chainedWith (m : Mode) (c b : Block) : Block :=
  match m with
  | .ecb => b
  | .cbc => xorBlock b c

/-- The block that comes of `b` after the chaining value `c`. -/
def cryptBlock (d : Dir) (m : Mode) (rk : RoundKeys) (c b : Block) : Block :=
  match d with
  | .encrypt => encBlock rk (chainedWith m c b)
  | .decrypt => chainedWith m c (decBlock rk b)

/-- The chaining value after `b`: in CBC the ciphertext block, in ECB the one before. -/
def nextChain (d : Dir) (m : Mode) (rk : RoundKeys) (c b : Block) : Block :=
  match m, d with
  | .ecb, _ => c
  | .cbc, .encrypt => cryptBlock .encrypt .cbc rk c b
  | .cbc, .decrypt => b

/-- The blocks that come of `bs` after the chaining value `c`. -/
def cryptFrom (d : Dir) (m : Mode) (rk : RoundKeys) (c : Block) : List Block → List Block
  | [] => []
  | b :: bs => cryptBlock d m rk c b :: cryptFrom d m rk (nextChain d m rk c b) bs

theorem cryptFrom_encrypt_ecb (rk : RoundKeys) (c : Block) (bs : List Block) :
    cryptFrom .encrypt .ecb rk c bs = bs.map (encBlock rk) := by
  induction bs with
  | nil => rfl
  | cons b bs ih => rw [cryptFrom, List.map_cons, ← ih]; rfl

theorem cryptFrom_decrypt_ecb (rk : RoundKeys) (c : Block) (bs : List Block) :
    cryptFrom .decrypt .ecb rk c bs = bs.map (decBlock rk) := by
  induction bs with
  | nil => rfl
  | cons b bs ih => rw [cryptFrom, List.map_cons, ← ih]; rfl

theorem cryptFrom_encrypt_cbc (rk : RoundKeys) (c : Block) (bs : List Block) :
    cryptFrom .encrypt .cbc rk c bs = encCbcFrom rk c bs := by
  induction bs generalizing c with
  | nil => rfl
  | cons b bs ih => rw [cryptFrom, encCbcFrom, ih]; rfl

theorem cryptFrom_decrypt_cbc (rk : RoundKeys) (c : Block) (bs : List Block) :
    cryptFrom .decrypt .cbc rk c bs = decCbcFrom rk c bs := by
  induction bs generalizing c with
  | nil => rfl
  | cons b bs ih => rw [cryptFrom, decCbcFrom, ih]; rfl

/-- The last block apart: it follows the chaining value that the blocks before it leave. -/
theorem cryptFrom_concat (d : Dir) (m : Mode) (rk : RoundKeys) (c b : Block) (bs : List Block) :
    cryptFrom d m rk c (bs ++ [b]) =
      cryptFrom d m rk c bs ++ [cryptBlock d m rk (bs.foldl (nextChain d m rk) c) b] := by
  induction bs generalizing c with
  | nil => rfl
  | cons a bs ih => rw [List.cons_append, cryptFrom, ih]; rfl

/-! ### Commands run to their end (R92) -/

theorem doCommand_of_complete {i : Instr} (hwf : i.wellFormed = true) (hidle : s.busy = false)
    (h : exec i (acceptCommand (encode i) s) = .next (complete t)) :
    doCommand i s = .ok (complete t) :=
  doCommand_ok (decode_encode hwf) hidle h rfl rfl

/-- A core that is idle, has the round keys `rk` and has a message open. -/
structure InMessage (d : Dir) (m : Mode) (ivpend : Bool) (rk : RoundKeys) (c : Block) (s : State) :
    Prop where
  idle : s.busy = false
  keyv : s.keyv = true
  mopen : s.mopen = true
  mdir : s.mdir = d
  mmode : s.mmode = m
  ivpend : s.ivpend = ivpend
  rk : s.rk = rk
  chain : s.chain = c

theorem doCommand_start_ecb (d : Dir) (h : IdleWithKey s) :
    ∃ t, doCommand (.start d .ecb) s = .ok t ∧ InMessage d .ecb false s.rk Block.zero t := by
  obtain ⟨hidle, hkey, hopen⟩ := h
  have hexec := (exec_start_of_no_draw (s := acceptCommand (encode (.start d .ecb)) s)
    (d := d) (m := .ecb) (by simp)).trans (checkStart_of_keyv _ hopen hkey)
  exact ⟨_, doCommand_of_complete rfl hidle hexec, rfl, hkey, rfl, rfl, rfl, rfl, rfl, rfl⟩

theorem doCommand_start_cbc_decrypt (h : IdleWithKey s) :
    ∃ t, doCommand (.start .decrypt .cbc) s = .ok t ∧
      InMessage .decrypt .cbc true s.rk Block.zero t := by
  obtain ⟨hidle, hkey, hopen⟩ := h
  have hexec := (exec_start_of_no_draw (s := acceptCommand (encode (.start .decrypt .cbc)) s)
    (d := .decrypt) (m := .cbc) (by simp)).trans (checkStart_of_keyv _ hopen hkey)
  exact ⟨_, doCommand_of_complete rfl hidle hexec, rfl, hkey, rfl, rfl, rfl, rfl, rfl, rfl⟩

theorem doCommand_start_cbc_encrypt {iv : Block} (h : IdleWithKey s)
    (hoffer : s.env.entropy = some iv) :
    ∃ t, doCommand (.start .encrypt .cbc) s = .ok t ∧
      InMessage .encrypt .cbc false s.rk iv t ∧ t.dout = iv := by
  obtain ⟨hidle, hkey, hopen⟩ := h
  have hexec := (exec_start_of_offer (s := acceptCommand (encode (.start .encrypt .cbc)) s)
    hoffer).trans (checkStart_of_keyv _ hopen hkey)
  exact ⟨_, doCommand_of_complete rfl hidle hexec, ⟨rfl, hkey, rfl, rfl, rfl, rfl, rfl, rfl⟩, rfl⟩

/-- R289: with nothing offered a CBC-encrypting START stays BUSY. -/
theorem doCommand_start_stalls (hidle : s.busy = false) (hoffer : s.env.entropy = none) :
    doCommand (.start .encrypt .cbc) s = .error .stalled := by
  have hwait := coreStep_of_awaiting (s := acceptCommand (encode (.start .encrypt .cbc)) s) rfl
    (decode_encode rfl) hoffer
  simp [doCommand, waitIdle, writeReg_cmd_idle _ hidle, hwait]

variable {d : Dir} {m : Mode} {rk : RoundKeys} {c : Block}

/-- R172: BLOCK in a message that waits for no IV. -/
theorem exec_block_inMessage (hopen : s.mopen = true) (hdir : s.mdir = d) (hmode : s.mmode = m)
    (hiv : s.ivpend = false) :
    exec .block s = blockDone (cryptBlock d m s.rk s.chain s.din)
      (nextChain d m s.rk s.chain s.din) s := by
  cases d <;> cases m
  · exact exec_block_encrypt_ecb hopen hdir hmode hiv
  · exact exec_block_encrypt_cbc hopen hdir hmode hiv
  · exact exec_block_decrypt_ecb hopen hdir hmode hiv
  · exact exec_block_decrypt_cbc hopen hdir hmode hiv

theorem doCommand_block (h : InMessage d m false rk c s) (b : Block) :
    ∃ t, doCommand .block (loadBlock b s) = .ok t ∧
      InMessage d m false rk (nextChain d m rk c b) t ∧ t.dout = cryptBlock d m rk c b ∧
      t.outv = true := by
  obtain ⟨hidle, hkey, hopen, hdir, hmode, hiv, rfl, rfl⟩ := h
  rw [loadBlock_idle b hidle]
  have hexec := exec_block_inMessage (s := acceptCommand (encode .block) (setDin b s))
    hopen hdir hmode hiv
  exact ⟨_, doCommand_of_complete rfl hidle hexec,
    ⟨rfl, hkey, hopen, hdir, hmode, hiv, rfl, rfl⟩, rfl, rfl⟩

/-- R172: the first BLOCK of a CBC decryption loads the IV. -/
theorem doCommand_block_loads_iv (h : InMessage .decrypt .cbc true rk c s) (iv : Block) :
    ∃ t, doCommand .block (loadBlock iv s) = .ok t ∧
      InMessage .decrypt .cbc false rk iv t ∧ t.outv = false := by
  obtain ⟨hidle, hkey, hopen, hdir, hmode, hiv, rfl, rfl⟩ := h
  rw [loadBlock_idle iv hidle]
  have hexec := exec_block_decrypt_cbc_loads_iv
    (s := acceptCommand (encode .block) (setDin iv s)) hopen hdir hmode hiv
  exact ⟨_, doCommand_of_complete rfl hidle hexec,
    ⟨rfl, hkey, hopen, hdir, hmode, rfl, rfl, rfl⟩, rfl⟩

theorem doCommand_final_encrypt (h : InMessage .encrypt m false rk c s) (b : Block) {nb : Nat}
    (hnb : nb < 16) :
    ∃ t, doCommand (.final nb) (loadBlock b s) = .ok t ∧ IdleWithKey t ∧ t.rk = rk ∧
      t.dout = cryptBlock .encrypt m rk c (finalChunk nb b) := by
  obtain ⟨hidle, hkey, hopen, hdir, rfl, hiv, rfl, rfl⟩ := h
  rw [loadBlock_idle b hidle]
  have hexec := exec_final_encrypt (s := acceptCommand (encode (.final nb)) (setDin b s)) nb
    hopen hdir
  exact ⟨_, doCommand_of_complete (decide_eq_true hnb) hidle hexec, ⟨rfl, hkey, rfl⟩, rfl, rfl⟩

/-! ### Encrypt (R213) -/

theorem encryptBlocks_cons {b : Block} {bs cs : List Block} {u : State}
    (hblock : doCommand .block (loadBlock b s) = .ok u) (hrest : encryptBlocks bs u = .ok (cs, t)) :
    encryptBlocks (b :: bs) s = .ok (u.dout :: cs, t) := by
  simp only [encryptBlocks, hblock, hrest, bind, Except.bind, readBlock_eq]

/-- R213: the loop reads the blocks of the message level and leaves their chaining value. -/
theorem encryptBlocks_ok (bs : List Block) (h : InMessage .encrypt m false rk c s) :
    ∃ t, encryptBlocks bs s = .ok (cryptFrom .encrypt m rk c bs, t) ∧
      InMessage .encrypt m false rk (bs.foldl (nextChain .encrypt m rk) c) t := by
  induction bs generalizing s c with
  | nil => exact ⟨s, rfl, h⟩
  | cons b bs ih =>
    obtain ⟨u, hblock, hu, hout, -⟩ := doCommand_block h b
    obtain ⟨t, hrest, ht⟩ := ih hu
    exact ⟨t, by rw [encryptBlocks_cons hblock hrest, hout]; rfl, ht⟩

/-- R213: Encrypt once its START has opened the message. -/
theorem encryptToBlocks_of_start {u : State} (p : List Byte)
    (hstart : doCommand (.start .encrypt m) s = .ok u) (hu : InMessage .encrypt m false rk c u) :
    ∃ t, encryptToBlocks p m s =
        .ok (readIV m u ++ cryptFrom .encrypt m rk c (paddedBlocks p), t) ∧
      IdleWithKey t ∧ t.rk = rk := by
  obtain ⟨v, hblocks, hv⟩ := encryptBlocks_ok (toBlocks (p.length / 16) p) hu
  obtain ⟨t, hfinal, ht, hrk, hout⟩ := doCommand_final_encrypt hv
    (blockOfBytes (p.drop (16 * (p.length / 16)))) (Nat.mod_lt p.length (by decide : 0 < 16))
  refine ⟨t, ?_, ht, hrk⟩
  rw [paddedBlocks_eq, cryptFrom_concat, ← hout]
  simp only [encryptToBlocks, hstart, hblocks, hfinal, bind, Except.bind, readBlock_eq,
    List.append_assoc]

/-- R168: Encrypt in ECB reads the message-level blocks. -/
theorem encryptToBlocks_ecb (p : List Byte) (h : IdleWithKey s) :
    ∃ t, encryptToBlocks p .ecb s = .ok (encEcb s.rk p, t) ∧ IdleWithKey t ∧ t.rk = s.rk := by
  obtain ⟨u, hstart, hu⟩ := doCommand_start_ecb .encrypt h
  rw [encEcb, ← cryptFrom_encrypt_ecb s.rk Block.zero]
  exact encryptToBlocks_of_start p hstart hu

/-- R168: Encrypt in CBC reads the message-level blocks under the offered IV. -/
theorem encryptToBlocks_cbc {iv : Block} (p : List Byte) (h : IdleWithKey s)
    (hoffer : s.env.entropy = some iv) :
    ∃ t, encryptToBlocks p .cbc s = .ok (encCbc s.rk iv p, t) ∧ IdleWithKey t ∧ t.rk = s.rk := by
  obtain ⟨u, hstart, hu, hout⟩ := doCommand_start_cbc_encrypt h hoffer
  have hiv : readIV .cbc u = [iv] := by rw [readIV, readBlock_eq, hout]
  rw [encCbc, ← cryptFrom_encrypt_cbc, ← List.singleton_append, ← hiv]
  exact encryptToBlocks_of_start p hstart hu

/-- Settles O57: the core's chaining value follows that of the message level through START, the loop
and FINAL. -/
theorem encryptReadsTheMessageLevelBlocks : Obligations.EncryptReadsTheMessageLevelBlocks :=
  fun _ p h => ⟨encryptToBlocks_ecb p h, fun _ hoffer => encryptToBlocks_cbc p h hoffer⟩

/-! ### Decrypt (R214) -/

theorem statusErr_eq (s : State) : statusErr s = s.err.code.toNat :=
  congrArg BitVec.toNat (statusWord_err s)

theorem statusPadlen_eq (s : State) : statusPadlen s = s.padlen.toNat :=
  congrArg BitVec.toNat (statusWord_padlen s)

theorem statusBit_outv (s : State) : statusBit 13 s = s.outv :=
  (statusWord_getLsbD s 13).trans (by simp)

theorem decryptBlocks_cons {b : Block} {bs qs : List Block} {u : State}
    (hblock : doCommand .block (loadBlock b s) = .ok u) (hrest : decryptBlocks bs u = .ok (qs, t)) :
    decryptBlocks (b :: bs) s = .ok ((if u.outv then [u.dout] else []) ++ qs, t) := by
  simp only [decryptBlocks, hblock, hrest, bind, Except.bind, readBlock_eq, statusBit_outv]

/-- R214: once the IV is loaded, the loop reads the blocks of the message level and leaves their
chaining value. -/
theorem decryptBlocks_ok (bs : List Block) (h : InMessage .decrypt m false rk c s) :
    ∃ t, decryptBlocks bs s = .ok (cryptFrom .decrypt m rk c bs, t) ∧
      InMessage .decrypt m false rk (bs.foldl (nextChain .decrypt m rk) c) t := by
  induction bs generalizing s c with
  | nil => exact ⟨s, rfl, h⟩
  | cons b bs ih =>
    obtain ⟨u, hblock, hu, hout, houtv⟩ := doCommand_block h b
    obtain ⟨t, hrest, ht⟩ := ih hu
    exact ⟨t, by rw [decryptBlocks_cons hblock hrest, houtv, hout]; rfl, ht⟩

theorem doCommand_final_good_padding (h : InMessage .decrypt m false rk c s) (b : Block) {n : Nat}
    (hpad : padCheck (cryptBlock .decrypt m rk c b) = some n) :
    ∃ t, doCommand (.final 0) (loadBlock b s) = .ok t ∧ IdleWithKey t ∧ t.err = .ok ∧
      t.dout = cryptBlock .decrypt m rk c b ∧ t.padlen = BitVec.ofNat 5 n := by
  obtain ⟨hidle, hkey, hopen, hdir, rfl, hiv, rfl, rfl⟩ := h
  rw [loadBlock_idle b hidle]
  have hexec := (exec_final_decrypt_zero (s := acceptCommand (encode (.final 0)) (setDin b s))
    hopen hdir).trans (finalDec_of_good_padding hiv hpad)
  exact ⟨_, doCommand_of_complete rfl hidle hexec, ⟨rfl, hkey, rfl⟩, rfl, rfl, rfl⟩

theorem doCommand_final_bad_padding (h : InMessage .decrypt m false rk c s) (b : Block)
    (hpad : padCheck (cryptBlock .decrypt m rk c b) = none) :
    ∃ t, doCommand (.final 0) (loadBlock b s) = .ok t ∧ t.err = .invalidPadding := by
  obtain ⟨hidle, hkey, hopen, hdir, rfl, hiv, rfl, rfl⟩ := h
  rw [loadBlock_idle b hidle]
  have hexec := (exec_final_decrypt_zero (s := acceptCommand (encode (.final 0)) (setDin b s))
    hopen hdir).trans (finalDec_of_bad_padding hiv hpad)
  exact ⟨_, doCommand_ok (decode_encode rfl) hidle hexec rfl rfl, rfl⟩

theorem finishDecrypt_ok {n : Nat} (buf : List Block) (herr : s.err = .ok) (hn : n ≤ 16)
    (hpad : s.padlen = BitVec.ofNat 5 n) :
    finishDecrypt buf s = .ok (fromBlocks buf ++ (bytesOfBlock s.dout).take (16 - n), s) := by
  have hlen : (BitVec.ofNat 5 n).toNat = n := Nat.mod_eq_of_lt (by omega)
  simp [finishDecrypt, statusErr_eq, statusPadlen_eq, herr, hpad, hlen, ErrCode.code]

theorem finishDecrypt_invalidPadding (buf : List Block) (herr : s.err = .invalidPadding) :
    finishDecrypt buf s = .error .invalidPadding := by
  simp [finishDecrypt, statusErr_eq, herr, ErrCode.code]

/-- R161, R162: Unpad keeps the blocks before the last and trims the last. -/
theorem unpad_fromBlocks_concat (bs : List Block) (q : Block) :
    unpad (fromBlocks (bs ++ [q])) =
      (padCheck q).map fun n => fromBlocks bs ++ (bytesOfBlock q).take (16 - n) := by
  rw [fromBlocks_concat, unpad_append_bytesOfBlock]
  refine Option.map_congr fun n hpad => ?_
  have ⟨_, hn⟩ := padCheck_range hpad
  rw [List.length_append, bytesOfBlock_length, Nat.add_sub_assoc hn, List.take_length_add_append]

/-- Decrypt's result `x` is the message-level result `r`: none is InvalidPadding. -/
def AgreesWith (r : Option (List Byte)) (x : Except HostError ((List Byte) × State)) : Prop :=
  (∀ p, r = some p → ∃ t, x = .ok (p, t) ∧ IdleWithKey t) ∧
  (r = none → x = .error .invalidPadding)

/-- R214: Decrypt once its loop has read the blocks `buf` in a message that waits for no IV: FINAL and
the trimming agree with Unpad. -/
theorem decryptFromBytes_of_loop {ct : List Byte} {mode : Mode} {u v : State} {buf : List Block}
    (hstart : doCommand (.start .decrypt mode) s = .ok u)
    (hloop : decryptBlocks (toBlocks (ct.length / 16 - 1) ct) u = .ok (buf, v))
    (hv : InMessage .decrypt m false rk c v) :
    AgreesWith (unpad (fromBlocks (buf ++ [cryptBlock .decrypt m rk c
        (blockOfBytes (ct.drop (16 * (ct.length / 16 - 1))))])))
      (decryptFromBytes ct mode s) := by
  rw [unpad_fromBlocks_concat]
  cases hpad : padCheck (cryptBlock .decrypt m rk c
      (blockOfBytes (ct.drop (16 * (ct.length / 16 - 1))))) with
  | none =>
    obtain ⟨t, hfinal, herr⟩ := doCommand_final_bad_padding hv _ hpad
    refine ⟨nofun, fun _ => ?_⟩
    simp only [decryptFromBytes, hstart, hloop, hfinal, bind, Except.bind]
    exact finishDecrypt_invalidPadding buf herr
  | some n =>
    obtain ⟨t, hfinal, ht, herr, hout, hlen⟩ := doCommand_final_good_padding hv _ hpad
    refine ⟨fun p hp => ⟨t, ?_, ht⟩, nofun⟩
    obtain rfl := Option.some.inj hp
    simp only [decryptFromBytes, hstart, hloop, hfinal, bind, Except.bind]
    rw [finishDecrypt_ok buf herr (padCheck_range hpad).2 hlen, hout]

theorem toBlocks_eq_concat {n : Nat} (hn : n ≠ 0) (l : List Byte) :
    toBlocks n l = toBlocks (n - 1) l ++ [blockOfBytes (l.drop (16 * (n - 1)))] := by
  rw [← toBlocks_succ, Nat.sub_add_cancel (Nat.one_le_iff_ne_zero.mpr hn)]

/-- R166, R214: Decrypt in ECB. -/
theorem decryptFromBytes_ecb {ct : List Byte} (h : IdleWithKey s) (hlen : ct.length / 16 ≠ 0) :
    AgreesWith (decEcb s.rk (toBlocks (ct.length / 16) ct)) (decryptFromBytes ct .ecb s) := by
  obtain ⟨u, hstart, hu⟩ := doCommand_start_ecb .decrypt h
  obtain ⟨v, hloop, hv⟩ := decryptBlocks_ok (toBlocks (ct.length / 16 - 1) ct) hu
  rw [toBlocks_eq_concat hlen, decEcb, ← cryptFrom_decrypt_ecb s.rk Block.zero, cryptFrom_concat]
  exact decryptFromBytes_of_loop hstart hloop hv

/-- R167, R214: Decrypt in CBC: its loop loads the IV first. -/
theorem decryptFromBytes_cbc {ct : List Byte} (h : IdleWithKey s) (hlen : 2 ≤ ct.length / 16) :
    AgreesWith (decCbc s.rk (toBlocks (ct.length / 16) ct)) (decryptFromBytes ct .cbc s) := by
  obtain ⟨k, hk⟩ : ∃ k, ct.length / 16 - 1 = k + 1 := ⟨ct.length / 16 - 2, by omega⟩
  obtain ⟨u, hstart, hu⟩ := doCommand_start_cbc_decrypt h
  obtain ⟨w, hload, hw, houtv⟩ := doCommand_block_loads_iv hu (blockOfBytes ct)
  obtain ⟨v, hrest, hv⟩ := decryptBlocks_ok (toBlocks k (ct.drop 16)) hw
  have hloop : decryptBlocks (toBlocks (ct.length / 16 - 1) ct) u =
      .ok (cryptFrom .decrypt .cbc s.rk (blockOfBytes ct) (toBlocks k (ct.drop 16)), v) := by
    rw [hk, toBlocks, decryptBlocks_cons hload hrest, houtv]
    rfl
  rw [toBlocks_eq_concat (by omega), hk, toBlocks, List.cons_append, decCbc_cons _ _ (by simp),
    ← cryptFrom_decrypt_cbc, cryptFrom_concat, ← hk]
  exact decryptFromBytes_of_loop hstart hloop hv

/-- Settles O58: START and the loop lead to FINAL with the message level's blocks and chaining value,
in CBC after the BLOCK that loads the IV. -/
theorem decryptAgreesWithTheMessageLevel : Obligations.DecryptAgreesWithTheMessageLevel := by
  intro s ct mode h hlen
  cases mode with
  | ecb =>
    have hblocks : ct.length % 16 = 0 ∧ ct.length ≠ 0 := by simpa [lengthCheck] using hlen
    exact decryptFromBytes_ecb h (by omega)
  | cbc =>
    have hblocks : ct.length % 16 = 0 ∧ 32 ≤ ct.length := by simpa [lengthCheck] using hlen
    exact decryptFromBytes_cbc h (by omega)

/-! ### Construct (R212) -/

theorem statusBit_mopen (s : State) : statusBit 9 s = s.mopen :=
  (statusWord_getLsbD s 9).trans (by simp)

/-- R212: Construct closes a message that is open. -/
theorem abort_if_open (h : s.busy = false) :
    ∃ u, (if statusBit 9 s then doCommand .abort s else .ok s) = .ok u ∧ u.busy = false ∧
      u.mopen = false ∧ u.ovr = s.ovr ∧ u.env = s.env := by
  rw [statusBit_mopen]
  cases hopen : s.mopen
  · exact ⟨s, rfl, h, hopen, rfl, rfl⟩
  · exact ⟨_, doCommand_of_complete rfl h rfl, rfl, rfl, rfl, rfl⟩

theorem doCommand_keyexp (k : Block) (h : s.busy = false) (hopen : s.mopen = false) :
    ∃ t, doCommand .keyexp (loadKey k s) = .ok t ∧ IdleWithKey t ∧ t.rk = keyExpand k ∧
      t.ovr = s.ovr ∧ t.env = s.env := by
  rw [loadKey_idle k h]
  have hexec := execKeyexp_of_not_open (s := acceptCommand (encode .keyexp) (setMk k s)) hopen
  exact ⟨_, doCommand_of_complete rfl h hexec, ⟨rfl, rfl, hopen⟩, rfl, rfl, rfl⟩

theorem construct_idle (keyText : List Char) (h : s.busy = false) :
    construct keyText s = (if statusBit 9 s then doCommand .abort s else .ok s).bind fun u =>
      doCommand .keyexp (loadKey (Config.d128 (utf8 keyText)) u) := by
  have hwait : waitIdle s = .ok s := by simp [waitIdle, h]
  cases hopen : statusBit 9 s <;> simp [construct, hwait, hopen, bind, Except.bind]

theorem construct_ok (keyText : List Char) (h : s.busy = false) :
    ∃ t, construct keyText s = .ok t ∧ IdleWithKey t ∧
      t.rk = keyExpand (Config.d128 (utf8 keyText)) ∧ t.ovr = s.ovr ∧ t.env = s.env := by
  obtain ⟨u, habort, hidle, hopen, hovr, henv⟩ := abort_if_open h
  obtain ⟨t, hkeyexp, ht, hrk, hovr', henv'⟩ :=
    doCommand_keyexp (Config.d128 (utf8 keyText)) hidle hopen
  refine ⟨t, ?_, ht, hrk, hovr'.trans hovr, henv'.trans henv⟩
  rw [construct_idle keyText h, habort]
  exact hkeyexp

/-- Settles O56: a message left open is aborted, and then KEYEXP expands the loaded key. -/
theorem constructInstallsTheKey : Obligations.ConstructInstallsTheKey := by
  intro s keyText h
  obtain ⟨t, ht, hkey, hrk, hovr, -⟩ := construct_ok keyText h
  exact ⟨t, ht, hkey, hrk, hovr⟩

/-! ### The contract (R213, R219, R224) -/

theorem encCbcFrom_length (rk : RoundKeys) (prev : Block) (qs : List Block) :
    (encCbcFrom rk prev qs).length = qs.length := by
  induction qs generalizing prev with
  | nil => rfl
  | cons q qs ih => rw [encCbcFrom, List.length_cons, ih, List.length_cons]

theorem paddedBlocks_length (p : List Byte) : (paddedBlocks p).length = p.length / 16 + 1 := by
  rw [paddedBlocks_eq, List.length_append, toBlocks_length]
  rfl

theorem encEcb_length (rk : RoundKeys) (p : List Byte) :
    (encEcb rk p).length = p.length / 16 + 1 := by
  rw [encEcb, List.length_map, paddedBlocks_length]

theorem encCbc_length (rk : RoundKeys) (iv : Block) (p : List Byte) :
    (encCbc rk iv p).length = p.length / 16 + 2 := by
  rw [encCbc, List.length_cons, encCbcFrom_length, paddedBlocks_length]

/-- R213: the hexadecimal ciphertext of blocks. -/
def hexOfBlocks (cs : List Block) : List Char := hexEncode (fromBlocks cs)

theorem hexOfBlocks_length (cs : List Block) : (hexOfBlocks cs).length = 32 * cs.length := by
  rw [hexOfBlocks, hexEncode_length, fromBlocks_length]
  omega

theorem encrypt_of_blocks {p : List Byte} {mode : Mode} {cs : List Block}
    (h : encryptToBlocks p mode s = .ok (cs, t)) : encrypt p mode s = .ok (hexOfBlocks cs, t) := by
  simp only [encrypt, h, bind, Except.bind, hexOfBlocks]

theorem encrypt_ecb (p : List Byte) (h : IdleWithKey s) :
    ∃ t, encrypt p .ecb s = .ok (hexOfBlocks (encEcb s.rk p), t) ∧ IdleWithKey t ∧ t.rk = s.rk := by
  obtain ⟨t, hblocks, ht⟩ := encryptToBlocks_ecb p h
  exact ⟨t, encrypt_of_blocks hblocks, ht⟩

theorem encrypt_cbc {iv : Block} (p : List Byte) (h : IdleWithKey s)
    (hoffer : s.env.entropy = some iv) :
    ∃ t, encrypt p .cbc s = .ok (hexOfBlocks (encCbc s.rk iv p), t) ∧ IdleWithKey t ∧
      t.rk = s.rk := by
  obtain ⟨t, hblocks, ht⟩ := encryptToBlocks_cbc p h hoffer
  exact ⟨t, encrypt_of_blocks hblocks, ht⟩

theorem encrypt_cbc_stalls (p : List Byte) (h : IdleWithKey s) (hoffer : s.env.entropy = none) :
    encrypt p .cbc s = .error .stalled := by
  have hstart := doCommand_start_stalls h.1 hoffer
  simp only [encrypt, encryptToBlocks, hstart, bind, Except.bind]

/-- R214: Decrypt of the hexadecimal of blocks that pass LengthCheck. -/
theorem decrypt_hexOfBlocks {cs : List Block} {mode : Mode}
    (h : lengthCheck (fromBlocks cs) mode = true) :
    decrypt (hexOfBlocks cs) mode s = decryptFromBytes (fromBlocks cs) mode s := by
  simp only [decrypt, hexOfBlocks, hexDecode_hexEncode, h, if_true]

theorem fromBlocks_length_div (cs : List Block) : (fromBlocks cs).length / 16 = cs.length := by
  rw [fromBlocks_length, Nat.mul_div_cancel_left _ (by decide)]

theorem decrypt_encEcb (p : List Byte) (h : IdleWithKey s) :
    ∃ t, decrypt (hexOfBlocks (encEcb s.rk p)) .ecb s = .ok (p, t) := by
  have hlen := encEcb_length s.rk p
  have hdiv := fromBlocks_length_div (encEcb s.rk p)
  have hagree := decryptFromBytes_ecb (ct := fromBlocks (encEcb s.rk p)) h (by omega)
  rw [hdiv, toBlocks_fromBlocks, decEcb_encEcb] at hagree
  obtain ⟨t, ht, -⟩ := hagree.1 p rfl
  exact ⟨t, (decrypt_hexOfBlocks (by simp [lengthCheck, hlen])).trans ht⟩

theorem decrypt_encCbc (iv : Block) (p : List Byte) (h : IdleWithKey s) :
    ∃ t, decrypt (hexOfBlocks (encCbc s.rk iv p)) .cbc s = .ok (p, t) := by
  have hlen := encCbc_length s.rk iv p
  have hdiv := fromBlocks_length_div (encCbc s.rk iv p)
  have hagree := decryptFromBytes_cbc (ct := fromBlocks (encCbc s.rk iv p)) h (by omega)
  rw [hdiv, toBlocks_fromBlocks, decCbc_encCbc] at hagree
  obtain ⟨t, ht, -⟩ := hagree.1 p rfl
  exact ⟨t, (decrypt_hexOfBlocks (by simp [lengthCheck, hlen]; omega)).trans ht⟩

/-- R224: Encrypt and then Decrypt, in either mode, on a core with a key and an offer. -/
theorem encrypt_decrypt {iv : Block} (p : List Byte) (mode : Mode) (h : IdleWithKey s)
    (hoffer : s.env.entropy = some iv) :
    ∃ c t u, encrypt p mode s = .ok (c, t) ∧ decrypt c mode t = .ok (p, u) := by
  cases mode with
  | ecb =>
    obtain ⟨t, henc, ht, hrk⟩ := encrypt_ecb p h
    obtain ⟨u, hdec⟩ := decrypt_encEcb p ht
    exact ⟨_, t, u, henc, hrk ▸ hdec⟩
  | cbc =>
    obtain ⟨t, henc, ht, hrk⟩ := encrypt_cbc p h hoffer
    obtain ⟨u, hdec⟩ := decrypt_encCbc iv p ht
    exact ⟨_, t, u, henc, hrk ▸ hdec⟩

/-- Settles O59: Construct leaves the offer and a core with the key's round keys, on which Decrypt
undoes Encrypt as the message level does. -/
theorem decryptOfEncryptIsThePlaintext : Obligations.DecryptOfEncryptIsThePlaintext := by
  refine ⟨fun keyText p iv mode s hidle => ?_, fun keyText p =>
    ⟨hexOfBlocks (encEcb (keyExpand (Config.d128 (utf8 keyText))) p), fun s hidle => ?_⟩⟩
  · obtain ⟨s₁, hcons, hkey, -, -, henv⟩ :=
      construct_ok (s := offerEntropy (some iv) s) keyText hidle
    obtain ⟨c, s₂, s₃, henc, hdec⟩ := encrypt_decrypt (iv := iv) p mode hkey (by rw [henv]; rfl)
    exact ⟨s₁, c, s₂, s₃, hcons, henc, hdec,
      decryptOfEncrypt_ok (encryptUnderKey_ok hcons henc) hdec⟩
  · obtain ⟨s₁, hcons, hkey, hrk, -⟩ := construct_ok keyText hidle
    obtain ⟨t, henc, ht, hrk'⟩ := encrypt_ecb p hkey
    obtain ⟨u, hdec⟩ := decrypt_encEcb p ht
    rw [hrk', hrk] at hdec
    rw [hrk] at henc
    refine ⟨t, u, encryptUnderKey_ok hcons henc, hdec, ?_⟩
    rintro rfl
    rw [hexOfBlocks_length, encEcb_length]
    rfl

theorem lengthCheck_eq_false_iff (c : List Byte) (mode : Mode) : lengthCheck c mode = false ↔
    c.length % 16 ≠ 0 ∨ (mode = .cbc ∧ c.length < 32) ∨ (mode = .ecb ∧ c.length = 0) := by
  cases mode <;> simp [lengthCheck, imp_iff_not_or]

/-- Settles O60: the blocks Encrypt reads are those of the message level, each 32 digits long, and a
CBC Encrypt without an offer does not succeed. -/
theorem ciphertextLengths : Obligations.CiphertextLengths := by
  refine ⟨fun s t p mode c hkey h => ?_, lengthCheck_eq_false_iff⟩
  cases mode with
  | ecb =>
    obtain ⟨u, henc, -⟩ := encrypt_ecb p hkey
    cases henc.symm.trans h
    rw [hexOfBlocks_length, encEcb_length]
  | cbc =>
    cases hoffer : s.env.entropy with
    | none => cases (encrypt_cbc_stalls p hkey hoffer).symm.trans h
    | some iv =>
      obtain ⟨u, henc, -⟩ := encrypt_cbc p hkey hoffer
      cases henc.symm.trans h
      rw [hexOfBlocks_length, encCbc_length]

end Sys2Proof.Machine
end
